-- ==== Sys2Proof/Word.lean ====
section
/-!
DEFINITION. Sys2Proof/Word.lean: the word types of Proez-2 (R7, R14, R71 of spec/00_scope.md, 02_encoding.md and
05_scalar.md) and their plainest arithmetic.
-/
namespace Sys2Proof

/-- A general register, an address, a doubleword. -/
abbrev Word := BitVec 64

/-- An instruction word (R14). -/
abbrev Word32 := BitVec 32

/-- One byte. -/
abbrev Byte := BitVec 8

/-- The number of an X register (R71). -/
abbrev XReg := BitVec 5

end Sys2Proof
end

