-- ==== Sys2Proof/Config.lean ====
section
/-!
DEFINITION. Sys2Proof/Config.lean: what an implementation fixes, and the free values: constants without a body, so that
nothing can be proved of the value the spec leaves open (log 6, log 7 of notes/assumptions).
-/
namespace Sys2Proof.Config

/-- Nanoseconds that step `n` takes on the TIME counter (R33, R74: timing is outside the semantic layer; log 7). -/
opaque stepNanoseconds : Nat → Nat

/-- Core clocks that step `n` takes on the CYCLE counter, with the arithmetic clock lowered or not (R33, R74, R328; log 7). -/
opaque stepClocks : Bool → Nat → Nat

/-- Doubleword `i` of the error-log entry of an event: time, number of its kind, location, requester, CTXID, `i` (Table 22.1 names
what an entry holds and gives no layout; log 6). -/
opaque errorLogWord : Nat → Nat → Nat → Nat → Nat → Nat → Word

/-- Doublewords of a block's snapshot record (R303, Table 22.1: no layout is given; log 6). -/
opaque snapshotWord : Nat → Nat → Word

/-- Does the firmware of a die's Hearth carry a good ML-DSA-87 signature over its SHA3-512 digest (R328; log 6)? -/
opaque firmwareVerifies : Nat → Bool

/-- Byte `i` of the SHA3-512 digest of the Hearth firmware (R328; log 6). -/
opaque firmwareDigest : Nat → Byte

/-- Byte `i` of the SHA3-512 digest of the resident kernel's image (R328; log 6). -/
opaque kernelDigest : Nat → Byte

/-- Byte `i` of the ML-DSA-87 public key, generated inside the device (R328; log 6). -/
opaque publicKey : Nat → Byte

/-- Byte `i` of the ML-DSA-87 signature over the SHA3-512 digest of the report bytes before it (R328, Table 22.11; log 6). -/
opaque signatureByte : List Byte → Nat → Byte

/-- Byte `i` of logical block `block` of the namespace of target-table entry `target`, as a read at step `n` finds it (R231: the
storage stands outside the device; log 6). -/
opaque storageByte : Nat → Nat → Nat → Nat → Byte

/-- Place in the order in which the Hearth's copy that completes at step `n` moves its byte `i` (R315: in no stated order; log 6). -/
opaque copyTurn : Nat → Nat → Nat

/-- Had the Hearth's copy that is found killed at step `n` moved its byte `i` (R315, R322; log 6)? -/
opaque copyMoved : Nat → Nat → Bool

end Sys2Proof.Config
end

