-- ==== Sys2Proof/Syntax.lean ====
section
/-!
DEFINITION. Sys2Proof/Syntax.lean: the instructions and events of Proez-2, one constructor per row of
spec/opcode_table.json. Formats: R18 of spec/02_encoding.md; vector words R21, R22; function values R34 to R37 of
spec/03_opcode_map.md; the events are the steps that spec/95_what_each_step_holds.md lists.
-/
namespace Sys2Proof

/-- Scopes (Table 3.2, Table 17.1); codes 6 and 7 have no constructor. -/
inductive Scope where
  | hart | core | clu | die | dev | sys
  deriving DecidableEq, Repr

/-- Order of a scalar atomic (Table 3.2). -/
inductive AmoOrder where
  | rlx | acq | rel | ar
  deriving DecidableEq, Repr

/-- Size of a scalar atomic (R88): 4 or 8 bytes. -/
inductive AmoSize where
  | w | d
  deriving DecidableEq, Repr

/-- Kinds of FENCE (Table 17.2). -/
inductive FenceKind where
  | sv | vs | vv | all
  deriving DecidableEq, Repr

/-- Fields of a stream or tile word (Table 2.1, WQ): Qn, Tn, xa, xb, mode. -/
structure WqArgs where
  qn   : BitVec 4
  tn   : BitVec 6
  xa   : XReg
  xb   : XReg
  mode : BitVec 3
  deriving DecidableEq, Repr

/-- Fields of a vector word other than op7 (Table 2.4). -/
structure VArgs where
  vd   : BitVec 6
  vs1  : BitVec 6
  vs2  : BitVec 6
  km   : BitVec 4
  kinv : Bool
  form : BitVec 3
  xs   : XReg
  ext  : BitVec 26
  deriving DecidableEq, Repr

/-- Fields of a convoy header (Table 2.2). -/
structure ConvoyHeader where
  nMinus1 : BitVec 3
  stg     : Bool
  stage   : BitVec 3
  slot0   : BitVec 3
  slot1   : BitVec 3
  slot2   : BitVec 3
  slot3   : BitVec 3
  slot4   : BitVec 3
  slot5   : BitVec 3
  long    : Bool
  pri     : BitVec 2
  deriving DecidableEq, Repr

/-- What a GROUP_DISPATCH event names (R320): a packet, and the core for which its lowest waiting group is bound. -/
structure GroupPick where
  packet : Nat
  core   : Nat
  deriving DecidableEq, Repr

/-- Messages of external agents (R325): a write that is performed, a read, a write that is sent on a flow (ROD or RUD) through a port, and the
delivery of one that is in flight. -/
inductive UetMessage where
  | write (die offset : Nat) (bytes : List Byte)
  | read  (die offset length : Nat)
  | send  (flow : Nat) (rod : Bool) (port die offset : Nat) (bytes : List Byte)
  | deliver (index : Nat)
  deriving DecidableEq, Repr

/-- The instructions and events of the opcode table. -/
inductive Instr where
  /-- ADD (R76). -/
  | add (xd xa xb : XReg)
  /-- SUB (R76). -/
  | sub (xd xa xb : XReg)
  /-- AND (R76). -/
  | and (xd xa xb : XReg)
  /-- OR (R76). -/
  | or (xd xa xb : XReg)
  /-- XOR (R76). -/
  | xor (xd xa xb : XReg)
  /-- SLL (R76). -/
  | sll (xd xa xb : XReg)
  /-- SRL (R76). -/
  | srl (xd xa xb : XReg)
  /-- SRA (R76). -/
  | sra (xd xa xb : XReg)
  /-- SLT (R76). -/
  | slt (xd xa xb : XReg)
  /-- SLTU (R76). -/
  | sltu (xd xa xb : XReg)
  /-- MIN (R76). -/
  | min (xd xa xb : XReg)
  /-- MAX (R76). -/
  | max (xd xa xb : XReg)
  /-- MINU (R76). -/
  | minu (xd xa xb : XReg)
  /-- MAXU (R76). -/
  | maxu (xd xa xb : XReg)
  /-- ANDN (R76). -/
  | andn (xd xa xb : XReg)
  /-- MUL (R76). -/
  | mul (xd xa xb : XReg)
  /-- MULH (R76). -/
  | mulh (xd xa xb : XReg)
  /-- MULHU (R76). -/
  | mulhu (xd xa xb : XReg)
  /-- DIV (R76). -/
  | div (xd xa xb : XReg)
  /-- DIVU (R76). -/
  | divu (xd xa xb : XReg)
  /-- REM (R76). -/
  | rem (xd xa xb : XReg)
  /-- REMU (R76). -/
  | remu (xd xa xb : XReg)
  /-- CLZ (R76). -/
  | clz (xd xa : XReg)
  /-- CTZ (R76). -/
  | ctz (xd xa : XReg)
  /-- POPC (R76). -/
  | popc (xd xa : XReg)
  /-- VSETVL (R61). -/
  | vsetvl (xd xa xb : XReg)
  /-- ADDI (R77). -/
  | addi (xd xa : XReg) (imm : BitVec 14)
  /-- ANDI (R77). -/
  | andi (xd xa : XReg) (imm : BitVec 14)
  /-- ORI (R77). -/
  | ori (xd xa : XReg) (imm : BitVec 14)
  /-- XORI (R77). -/
  | xori (xd xa : XReg) (imm : BitVec 14)
  /-- SLTI (R77). -/
  | slti (xd xa : XReg) (imm : BitVec 14)
  /-- SLTIU (R77). -/
  | sltiu (xd xa : XReg) (imm : BitVec 14)
  /-- SLLI (R77). -/
  | slli (xd xa : XReg) (shift : BitVec 6)
  /-- SRLI (R77). -/
  | srli (xd xa : XReg) (shift : BitVec 6)
  /-- SRAI (R77). -/
  | srai (xd xa : XReg) (shift : BitVec 6)
  /-- LDB (R82). -/
  | ldb (xd xa : XReg) (off : BitVec 15)
  /-- LDH (R82). -/
  | ldh (xd xa : XReg) (off : BitVec 15)
  /-- LDW (R82). -/
  | ldw (xd xa : XReg) (off : BitVec 15)
  /-- LDD (R82). -/
  | ldd (xd xa : XReg) (off : BitVec 15)
  /-- LDBU (R82). -/
  | ldbu (xd xa : XReg) (off : BitVec 15)
  /-- LDHU (R82). -/
  | ldhu (xd xa : XReg) (off : BitVec 15)
  /-- LDWU (R82). -/
  | ldwu (xd xa : XReg) (off : BitVec 15)
  /-- STB (R82). -/
  | stb (xs xa : XReg) (off : BitVec 15)
  /-- STH (R82). -/
  | sth (xs xa : XReg) (off : BitVec 15)
  /-- STW (R82). -/
  | stw (xs xa : XReg) (off : BitVec 15)
  /-- STD (R82). -/
  | std (xs xa : XReg) (off : BitVec 15)
  /-- BEQ (R85). -/
  | beq (xa xb : XReg) (off : BitVec 15)
  /-- BNE (R85). -/
  | bne (xa xb : XReg) (off : BitVec 15)
  /-- BLT (R85). -/
  | blt (xa xb : XReg) (off : BitVec 15)
  /-- BGE (R85). -/
  | bge (xa xb : XReg) (off : BitVec 15)
  /-- BLTU (R85). -/
  | bltu (xa xb : XReg) (off : BitVec 15)
  /-- BGEU (R85). -/
  | bgeu (xa xb : XReg) (off : BitVec 15)
  /-- JAL (R86). -/
  | jal (xd : XReg) (off : BitVec 23)
  /-- JALR (R86). -/
  | jalr (xd xa : XReg) (off : BitVec 18)
  /-- LUI (R78). -/
  | lui (xd : XReg) (imm : BitVec 23)
  /-- ADDPC (R78). -/
  | addpc (xd : XReg) (imm : BitVec 23)
  /-- AMOSWAP (R88). -/
  | amoswap (xd xa xb : XReg) (size : AmoSize) (order : AmoOrder) (scope : Scope)
  /-- AMOADD (R88). -/
  | amoadd (xd xa xb : XReg) (size : AmoSize) (order : AmoOrder) (scope : Scope)
  /-- AMOAND (R88). -/
  | amoand (xd xa xb : XReg) (size : AmoSize) (order : AmoOrder) (scope : Scope)
  /-- AMOOR (R88). -/
  | amoor (xd xa xb : XReg) (size : AmoSize) (order : AmoOrder) (scope : Scope)
  /-- AMOXOR (R88). -/
  | amoxor (xd xa xb : XReg) (size : AmoSize) (order : AmoOrder) (scope : Scope)
  /-- AMOMIN (R88). -/
  | amomin (xd xa xb : XReg) (size : AmoSize) (order : AmoOrder) (scope : Scope)
  /-- AMOMAX (R88). -/
  | amomax (xd xa xb : XReg) (size : AmoSize) (order : AmoOrder) (scope : Scope)
  /-- AMOMINU (R88). -/
  | amominu (xd xa xb : XReg) (size : AmoSize) (order : AmoOrder) (scope : Scope)
  /-- AMOMAXU (R88). -/
  | amomaxu (xd xa xb : XReg) (size : AmoSize) (order : AmoOrder) (scope : Scope)
  /-- AMOCAS (R88). -/
  | amocas (xd xa xb : XReg) (size : AmoSize) (order : AmoOrder) (scope : Scope)
  /-- CSRRW (R75). -/
  | csrrw (xd xa : XReg) (csr : BitVec 12)
  /-- CSRRS (R75). -/
  | csrrs (xd xa : XReg) (csr : BitVec 12)
  /-- CSRRC (R75). -/
  | csrrc (xd xa : XReg) (csr : BitVec 12)
  /-- CSRRWI (R75). -/
  | csrrwi (xd uimm : XReg) (csr : BitVec 12)
  /-- TRAP (R90). -/
  | trap (code : BitVec 14)
  /-- ERET (R289). -/
  | eret
  /-- FENCE (R272). -/
  | fence (kind : FenceKind) (scope : Scope)
  /-- BAR (R275). -/
  | bar (xa : XReg) (scope : Scope)
  /-- WFE (R91). -/
  | wfe (xa : XReg)
  /-- YIELD (R92). -/
  | yield
  /-- SNAP (R303). -/
  | snap
  /-- BRK (R90). -/
  | brk
  /-- IFENCE (R92). -/
  | ifence
  /-- LOOP (R147). -/
  | loop (xa : XReg) (stages : BitVec 3) (rot : Bool) (len : BitVec 16)
  /-- LOOPS (R147). -/
  | loops (xa : XReg) (stages : BitVec 3) (rot farm : Bool) (len : BitVec 16)
  /-- LEXIT (R154). -/
  | lexit (kn : BitVec 4)
  /-- LBRK (R155). -/
  | lbrk (lv : BitVec 2) (off : BitVec 16)
  /-- LPOP (R155). -/
  | lpop (lv : BitVec 2)
  /-- QLD (R227). -/
  | qld (q : WqArgs)
  /-- QST (R227). -/
  | qst (q : WqArgs)
  /-- QRED (R229). -/
  | qred (q : WqArgs)
  /-- QFOLD (R230). -/
  | qfold (q : WqArgs)
  /-- QNVM (R231). -/
  | qnvm (q : WqArgs)
  /-- QWAIT (R232). -/
  | qwait (q : WqArgs)
  /-- QAVAIL (R232). -/
  | qavail (q : WqArgs)
  /-- QCLOSE (R233). -/
  | qclose (q : WqArgs)
  /-- QSAVE (R234). -/
  | qsave (q : WqArgs)
  /-- QREST (R234). -/
  | qrest (q : WqArgs)
  /-- TALLOC (R210). -/
  | talloc (q : WqArgs)
  /-- TFREE (R210). -/
  | tfree (q : WqArgs)
  /-- TSTAT (R210). -/
  | tstat (q : WqArgs)
  /-- TSET (R210). -/
  | tset (q : WqArgs)
  /-- TRED (R210). -/
  | tred (q : WqArgs)
  /-- VSETVLI (R61). -/
  | vsetvli (xd xa : XReg) (sew fmt blk : BitVec 3) (rm : BitVec 2)
  /-- BEXT (R79). -/
  | bext (xd xa : XReg) (pos len : BitVec 6)
  /-- BEXTU (R79). -/
  | bextu (xd xa : XReg) (pos len : BitVec 6)
  /-- BINS (R79). -/
  | bins (xd xa : XReg) (pos len : BitVec 6)
  /-- FSHL (R80). -/
  | fshl (xd xa xb : XReg) (shift : BitVec 6)
  /-- FSHR (R80). -/
  | fshr (xd xa xb : XReg) (shift : BitVec 6)
  /-- BEXTV (R81). -/
  | bextv (xd xa xb : XReg)
  /-- NON_INSTRUCTION_ENCODING (R30). -/
  | nonInstructionEncoding (w : Word32)
  /-- CONVOY (R29). -/
  | convoy (header : ConvoyHeader) (words : List Word)
  /-- CONVOY_ISSUE (R68). -/
  | convoyIssue (hart : Nat)
  /-- CONVOY_RETIRE (R27). -/
  | convoyRetire (hart : Nat)
  /-- VADD (R115). -/
  | vadd (v : VArgs)
  /-- VSUB (R115). -/
  | vsub (v : VArgs)
  /-- VRSUB (R115). -/
  | vrsub (v : VArgs)
  /-- VAND (R115). -/
  | vand (v : VArgs)
  /-- VOR (R115). -/
  | vor (v : VArgs)
  /-- VXOR (R115). -/
  | vxor (v : VArgs)
  /-- VSLL (R115). -/
  | vsll (v : VArgs)
  /-- VSRL (R115). -/
  | vsrl (v : VArgs)
  /-- VSRA (R115). -/
  | vsra (v : VArgs)
  /-- VMIN (R115). -/
  | vmin (v : VArgs)
  /-- VMAX (R115). -/
  | vmax (v : VArgs)
  /-- VMINU (R115). -/
  | vminu (v : VArgs)
  /-- VMAXU (R115). -/
  | vmaxu (v : VArgs)
  /-- VADDS (R115). -/
  | vadds (v : VArgs)
  /-- VSUBS (R115). -/
  | vsubs (v : VArgs)
  /-- VADDUS (R115). -/
  | vaddus (v : VArgs)
  /-- VMUL (R115). -/
  | vmul (v : VArgs)
  /-- VMULH (R115). -/
  | vmulh (v : VArgs)
  /-- VMULHU (R115). -/
  | vmulhu (v : VArgs)
  /-- VMACC (R115). -/
  | vmacc (v : VArgs)
  /-- VWIDEN (R118). -/
  | vwiden (v : VArgs)
  /-- VNARROW (R118). -/
  | vnarrow (v : VArgs)
  /-- VMERGE (R117). -/
  | vmerge (v : VArgs)
  /-- VMV (R117). -/
  | vmv (v : VArgs)
  /-- VCMPEQ (R116). -/
  | vcmpeq (v : VArgs)
  /-- VCMPNE (R116). -/
  | vcmpne (v : VArgs)
  /-- VCMPLT (R116). -/
  | vcmplt (v : VArgs)
  /-- VCMPLTU (R116). -/
  | vcmpltu (v : VArgs)
  /-- VCMPLE (R116). -/
  | vcmple (v : VArgs)
  /-- VCMPLEU (R116). -/
  | vcmpleu (v : VArgs)
  /-- VCMPGT (R116). -/
  | vcmpgt (v : VArgs)
  /-- VFADD (R119). -/
  | vfadd (v : VArgs)
  /-- VFSUB (R119). -/
  | vfsub (v : VArgs)
  /-- VFMUL (R119). -/
  | vfmul (v : VArgs)
  /-- VFDIV (R119). -/
  | vfdiv (v : VArgs)
  /-- VFSQRT (R119). -/
  | vfsqrt (v : VArgs)
  /-- VFMA (R119). -/
  | vfma (v : VArgs)
  /-- VFMS (R119). -/
  | vfms (v : VArgs)
  /-- VFNMA (R119). -/
  | vfnma (v : VArgs)
  /-- VFMIN (R120). -/
  | vfmin (v : VArgs)
  /-- VFMAX (R120). -/
  | vfmax (v : VArgs)
  /-- VFSGN (R121). -/
  | vfsgn (v : VArgs)
  /-- VFCMPEQ (R122). -/
  | vfcmpeq (v : VArgs)
  /-- VFCMPLT (R122). -/
  | vfcmplt (v : VArgs)
  /-- VFCMPLE (R122). -/
  | vfcmple (v : VArgs)
  /-- VFCLASS (R123). -/
  | vfclass (v : VArgs)
  /-- VFCVT (R124). -/
  | vfcvt (v : VArgs)
  /-- VBSCALE (R126). -/
  | vbscale (v : VArgs)
  /-- VBQUANT (R127). -/
  | vbquant (v : VArgs)
  /-- VBDEQ (R128). -/
  | vbdeq (v : VArgs)
  /-- VID (R117). -/
  | vid (v : VArgs)
  /-- VSLUP (R137). -/
  | vslup (v : VArgs)
  /-- VSLDN (R137). -/
  | vsldn (v : VArgs)
  /-- VPERM (R138). -/
  | vperm (v : VArgs)
  /-- VCOMPRESS (R139). -/
  | vcompress (v : VArgs)
  /-- VEXPAND (R139). -/
  | vexpand (v : VArgs)
  /-- VREDSUM (R140). -/
  | vredsum (v : VArgs)
  /-- VREDMIN (R140). -/
  | vredmin (v : VArgs)
  /-- VREDMAX (R140). -/
  | vredmax (v : VArgs)
  /-- VFREDO (R141). -/
  | vfredo (v : VArgs)
  /-- VFREDT (R141). -/
  | vfredt (v : VArgs)
  /-- VFREDMIN (R140). -/
  | vfredmin (v : VArgs)
  /-- VFREDMAX (R140). -/
  | vfredmax (v : VArgs)
  /-- VMVXS (R136). -/
  | vmvxs (v : VArgs)
  /-- VMVSX (R136). -/
  | vmvsx (v : VArgs)
  /-- VIOTA (R139). -/
  | viota (v : VArgs)
  /-- KAND (R134). -/
  | kand (v : VArgs)
  /-- KOR (R134). -/
  | kor (v : VArgs)
  /-- KXOR (R134). -/
  | kxor (v : VArgs)
  /-- KANDN (R134). -/
  | kandn (v : VArgs)
  /-- KNOT (R134). -/
  | knot (v : VArgs)
  /-- KPOPC (R135). -/
  | kpopc (v : VArgs)
  /-- KFIRST (R135). -/
  | kfirst (v : VArgs)
  /-- KSETN (R134). -/
  | ksetn (v : VArgs)
  /-- KMV (R134). -/
  | kmv (v : VArgs)
  /-- VLD (R215). -/
  | vld (v : VArgs)
  /-- VLDS (R215). -/
  | vlds (v : VArgs)
  /-- VLDX (R215). -/
  | vldx (v : VArgs)
  /-- VST (R216). -/
  | vst (v : VArgs)
  /-- VSTS (R216). -/
  | vsts (v : VArgs)
  /-- VSTX (R216). -/
  | vstx (v : VArgs)
  /-- VSXADD (R217). -/
  | vsxadd (v : VArgs)
  /-- VAMOADD (R249). -/
  | vamoadd (v : VArgs)
  /-- VAMOMIN (R249). -/
  | vamomin (v : VArgs)
  /-- VAMOMAX (R249). -/
  | vamomax (v : VArgs)
  /-- VLDK (R218). -/
  | vldk (v : VArgs)
  /-- VSTK (R218). -/
  | vstk (v : VArgs)
  /-- MMA (R191). -/
  | mma (v : VArgs)
  /-- MCONV (R194). -/
  | mconv (v : VArgs)
  /-- MZERO (R189). -/
  | mzero (v : VArgs)
  /-- MRDROW (R198). -/
  | mrdrow (v : VArgs)
  /-- MWRROW (R199). -/
  | mwrrow (v : VArgs)
  /-- VPCONV (R176). -/
  | vpconv (v : VArgs)
  /-- VPCONVA (R176). -/
  | vpconva (v : VArgs)
  /-- VPACK (R174). -/
  | vpack (v : VArgs)
  /-- VFEXT (R177). -/
  | vfext (v : VArgs)
  /-- FLSET (R171). -/
  | flset (v : VArgs)
  /-- FLGET (R173). -/
  | flget (v : VArgs)
  /-- PCLAIM (R187). -/
  | pclaim (v : VArgs)
  /-- PFREE (R188). -/
  | pfree (v : VArgs)
  /-- HFSET (R256). -/
  | hfset (v : VArgs)
  /-- HCODE (R257). -/
  | hcode (v : VArgs)
  /-- HPROBE (R259). -/
  | hprobe (v : VArgs)
  /-- HINS (R259). -/
  | hins (v : VArgs)
  /-- HDEL (R259). -/
  | hdel (v : VArgs)
  /-- HREHASH (R261). -/
  | hrehash (v : VArgs)
  /-- HFENCE (R262). -/
  | hfence (v : VArgs)
  /-- HSTAT (R263). -/
  | hstat (v : VArgs)
  /-- HPROBE_READ_STEP (R260). -/
  | hprobeReadStep (hart code : Nat)
  /-- HREHASH_PASS (R261). -/
  | hrehashPass (hart : Nat) (abort : Bool)
  /-- MATRIX_UPDATE_APPLY (R197). -/
  | matrixUpdateApply (hart index : Nat) (dataError : Bool)
  /-- CLUSTER_RELEASE (R55). -/
  | clusterRelease (core cluster : Nat)
  /-- SSB_COMMIT (R157). -/
  | ssbCommit (hart : Nat)
  /-- ORDERED_WAIT_RELEASE (R95). -/
  | orderedWaitRelease (hart : Nat)
  /-- WFE_WAKE (R91). -/
  | wfeWake (hart : Nat)
  /-- WFE_TIMEOUT (R91). -/
  | wfeTimeout (hart : Nat)
  /-- BAR_RELEASE (R276). -/
  | barRelease (hart : Nat)
  /-- QWAIT_RETURN (R232). -/
  | qwaitReturn (hart : Nat)
  /-- QCLOSE_RETURN (R233). -/
  | qcloseReturn (hart : Nat)
  /-- STREAM_START (R224). -/
  | streamStart (hart : Nat)
  /-- STREAM_ELEMENT_ARRIVAL (R221). -/
  | streamElementArrival (hart handle element : Nat)
  /-- STREAM_FAIL (R225). -/
  | streamFail (hart handle status : Nat)
  /-- QRED_SEND (R229). -/
  | qredSend (hart handle : Nat)
  /-- QRED_CONTRIBUTION_ARRIVAL (R229). -/
  | qredContributionArrival (hart handle : Nat)
  /-- QFOLD_APPLY (R230). -/
  | qfoldApply (hart handle : Nat)
  /-- TILE_USE_DRAIN (R209). -/
  | tileUseDrain (hart : Nat)
  /-- TLB_WALK_COMPLETE (R242). -/
  | tlbWalkComplete (hart : Nat) (address : Word)
  /-- CELLAR_UPDATE (R248). -/
  | cellarUpdate (index : Nat)
  /-- ABORT_COMPLETION (R296). -/
  | abortCompletion (hart : Nat) (address : Word) (element lane : Nat)
  /-- PREEMPT (R292). -/
  | preempt (hart : Nat)
  /-- TIMER (R286). -/
  | timer (hart : Nat)
  /-- PREEMPT_DEADLINE (R292). -/
  | preemptDeadline (hart : Nat)
  /-- PREEMPT_TRAP_ENTRY (R292). -/
  | preemptTrapEntry (hart : Nat)
  /-- VT_WRITE (R60). -/
  | vtWrite (value : Word)
  /-- VL_WRITE (R60). -/
  | vlWrite (value : Word)
  /-- GRANT_WRITE_ZERO (R60). -/
  | grantWriteZero
  /-- VMT_WRITE (R57). -/
  | vmtWrite (value : Word)
  /-- VSTATE_WRITE (R102). -/
  | vstateWrite (value : Word)
  /-- VTAG_WRITE (R102). -/
  | vtagWrite (register : BitVec 6) (value : Word)
  /-- LOOP_CSR_WRITE (R145). -/
  | loopCsrWrite (csr : BitVec 12) (value : Word)
  /-- SHADOW_SSBUSE_WRITE (R164). -/
  | shadowSsbuseWrite (value : Word)
  /-- FFLAGS_WRITE (R200). -/
  | fflagsWrite (value : Word)
  /-- ESHADOW_SELECT (R287). -/
  | eshadowSelect (value : Word)
  /-- PMODE_WRITE (R297). -/
  | pmodeWrite (value : Word)
  /-- RETRY_WRITE (R297). -/
  | retryWrite (value : Word)
  /-- CSR_WRITE (R75). -/
  | csrWrite (csr : BitVec 12) (value : Word)
  /-- DEBUGGER_ATTACH (R302). -/
  | debuggerAttach (ctxid : Nat)
  /-- DEBUG_RESUME (R302). -/
  | debugResume (hart : Nat)
  /-- SNAPSHOT_LATCH (R303). -/
  | snapshotLatch
  /-- SNAPSHOT_RELEASE (R303). -/
  | snapshotRelease
  /-- SHOOTDOWN_REQUEST (R247). -/
  | shootdownRequest (die : Nat)
  /-- SHOOTDOWN_COMPLETE (R247). -/
  | shootdownComplete (die : Nat)
  /-- ATTESTATION_REQUEST (R329). -/
  | attestationRequest (die : Nat)
  /-- QUEUE_NOTIFY (R314). -/
  | queueNotify (die queue : Nat)
  /-- QUEUE_START (R334). -/
  | queueStart (die queue : Nat)
  /-- QUEUE_DRAIN (R322). -/
  | queueDrain (die queue : Nat)
  /-- QUEUE_KILL (R322). -/
  | queueKill (die queue : Nat)
  /-- QUEUE_CMD_CLEAR (R334). -/
  | queueCmdClear (die queue : Nat)
  /-- WAIT_CONDITION_MET (R315). -/
  | waitConditionMet (packet : Nat)
  /-- COPY_COMPLETE (R315). -/
  | copyComplete (packet : Nat)
  /-- PACKET_COMPLETE (R316). -/
  | packetComplete (packet : Nat)
  /-- GROUP_DISPATCH (R320). -/
  | groupDispatch (packet : GroupPick)
  /-- HART_EXIT (R321). -/
  | hartExit (hart : Nat)
  /-- GROUP_RETIRE (R321). -/
  | groupRetire (packet group : Nat)
  /-- TASK_QUIESCENCE (R322). -/
  | taskQuiescence (packet : Nat)
  /-- FABRIC_REQUEST_ARRIVAL (R323). -/
  | fabricRequestArrival (source target sequence version : Nat)
  /-- FABRIC_ACK_ARRIVAL (R323). -/
  | fabricAckArrival (source target sequence : Nat)
  /-- LINK_DEATH (R324). -/
  | linkDeath (a b : Nat)
  /-- UET_MESSAGE (R325). -/
  | uetMessage (message : UetMessage)
  /-- PORT_FAILURE (R325). -/
  | portFailure (port : Nat)
  /-- BRING_UP (R328). -/
  | bringUp (stage : Nat)
  /-- THERMAL_LIMIT (R328). -/
  | thermalLimit
  /-- OVERTEMP_KILL (R328). -/
  | overtempKill (die : Nat)
  deriving DecidableEq, Repr

end Sys2Proof
end

