-- ==== Sys2Proof/Machine/State.lean ====
section
/-!
DEFINITION. Sys2Proof/Machine/State.lean: the state of a Barmel B6, as plain data, and the state after reset.
INVENTORY.md, heading State, lists every piece with its rule. One hart is in the hand of the machine at a time (`h`, with
its core `core`); the others are kept apart and brought in by `State.focus` (Machine/Ops.lean).
-/
namespace Sys2Proof.Machine

/-- Reasons the machine stops with a fault. -/
inductive Fault where
  /-- Raised by UET_MESSAGE when an external agent names a die or an offset that no B6 has (R237). Safe: the model stops
  where the part would not accept the message. -/
  | noSuchLocation (die offset : Nat)
  deriving DecidableEq, Repr

/-- Reasons an instruction is refused. -/
inductive Refusal where
  /-- Raised by an arm of `exec` whose instruction has no meaning yet. Safe: the model stops. -/
  | notModelled (mnemonic : String)
  deriving DecidableEq, Repr

/-- Trap causes (Table 19.1). -/
inductive Cause where
  | ill | enc | align | page | perm | guard | shape | lnest | lesc | first | data | lane | qerr | hash | brk | dbg | trap
  | preempt | timer | strip
  deriving DecidableEq, Repr

/-- A refusal: the cause and what it leaves in ECAUSE.BP, EPC, EVAL, EELEM and ELANE (R286). -/
structure TrapInfo where
  cause : Cause
  bp    : Nat
  epc   : Word
  eval  : Word
  eelem : Nat
  elane : Nat
  deriving DecidableEq, Repr

/-- Why a word or convoy has no effect: a trap, an abort completion (R296), a breakpoint (R301), a failure of a migration that the hart
held (R261). -/
inductive Stop where
  | trap (t : TrapInfo)
  | abort (t : TrapInfo)
  | dbg (bp : Nat) (snap : Bool) (t : TrapInfo)
  | held (desc : Word) (t : TrapInfo)
  deriving DecidableEq, Repr

/-- How an access is denied: by translation, by permission, or by an abort completion (R242, R243, R296). -/
inductive Denial where
  | page | perm | abort
  deriving DecidableEq, Repr

/-- Kinds of translated access (R243). -/
inductive Access where
  | fetch | load | store | atomic
  deriving DecidableEq, Repr

/-- Where an address leads (R244): the key of its byte, whether its page is replicated, whether it is an ATOM page. -/
structure Place where
  key  : Nat
  repl : Bool
  atom : Bool
  deriving DecidableEq, Repr

/-- Memory: pairs of address and byte, addresses strictly rising, no byte equal to what an unlisted address reads as
(`Memory.blank`, Machine/Bits.lean; log 4). Keys: die * 2^37 + offset for device memory; the local maps follow. -/
abbrev Memory := List Host.Cell

/-- A physical vector register with its length tag in bits (R98, R99). Bits at and above the tag are 0. -/
structure VReg where
  bits : BitVec 8192
  tag  : Nat
  deriving DecidableEq, Repr

/-- Pane types (Table 11.3). -/
inductive PaneType where
  | none | fp64 | fp32 | int32 | int64
  deriving DecidableEq, Repr

/-- A pane (R183, Table 11.3). `owner` is the HARTID of the owning hart; `rows` holds 16 rows of 1,024 bytes. -/
structure Pane where
  owner  : Option Nat
  ty     : PaneType
  failed : Bool
  chain  : BitVec 16
  rows   : List (BitVec 8192)
  deriving DecidableEq, Repr

/-- Tile states (Table 12.3). -/
inductive TileState where
  | empty | filling | ready | draining
  deriving DecidableEq, Repr

/-- A QRED contribution on its way or in a reorder buffer (R229). -/
structure Contribution where
  hart   : Nat
  handle : Nat
  index  : Nat
  vt     : BitVec 11
  data   : List Nat
  deriving DecidableEq, Repr

/-- A tile table entry (Table 12.3), with NEXT and the reorder buffer (R229). The use count of R209 is computed from the
convoys issued and the QREDs unsent (`State.tileUses`). -/
structure Tile where
  alloc    : Bool
  state    : TileState
  base     : Nat
  len      : Nat
  owner    : BitVec 16
  task     : Nat
  bound    : Bool
  stream   : Nat
  hart     : Nat
  expected : Nat
  arrived  : Nat
  next     : Nat
  buffer   : List Contribution
  deriving DecidableEq, Repr

/-- Elements of a QST or QNVM whose writes have been accepted on their way to memory (R228): the elements, the accepted writes by their
numbers, the dies that they go to, copies of a REPL page aside. -/
structure Moving where
  elems : List Nat
  first : Nat
  count : Nat
  dies  : List Nat
  deriving DecidableEq, Repr

/-- A stream (R221 to R234): the items of Table 13.7, the elements that have finished beyond the prefix N, those whose writes are on their
way, its AIT ranges, what its accesses are made as, when it started and the number that the next write had then (R236), and for a QRED
whether and what it has read of its source. -/
structure Stream where
  kind     : BitVec 5
  mode     : BitVec 3
  tn       : BitVec 6
  xa       : Word
  xb       : Word
  vt       : BitVec 11
  total    : Nat
  n        : Nat
  arrived  : List Nat
  moving   : List Moving
  status   : BitVec 8
  complete : Bool
  reads    : List (Nat × Nat)
  writes   : List (Nat × Nat)
  ctxid    : BitVec 16
  sup      : Bool
  age      : Nat
  since    : Nat
  sent     : Bool
  held     : List Nat
  deriving DecidableEq, Repr

/-- A captured pane update with its operands (R196, R204). MZERO sets the type at its capture (R189). -/
inductive UpdateKind where
  | mma (vt : BitVec 11) (ty : PaneType) (vl rows : Nat) (active : BitVec 4096) (a : BitVec 8192) (b : List (BitVec 8192))
      (scales : BitVec 8192)
  | mconv (base : Nat) (acc : List (List Int))
  | mzero
  | mwrrow (row width vl : Nat) (data : BitVec 8192)
  deriving DecidableEq, Repr

/-- An entry of the matrix operand queue (R204): pane, rows touched, bytes of the operand buffer, the update. -/
structure Update where
  pane  : Nat
  rows  : BitVec 16
  bytes : Nat
  kind  : UpdateKind
  deriving DecidableEq, Repr

/-- A store on its way to memory (R269): by which agent of the hart, in which context, from which address, to which cells, on what kind of
page. `mask` names, for each of its cells, the bits that it writes (R216). -/
structure Store where
  vector : Bool
  ctxid  : BitVec 16
  va     : Word
  cells  : List Host.Cell
  mask   : Byte
  repl   : Bool
  atom   : Bool
  deriving DecidableEq, Repr

/-- A loop level (Table 8.3) with its stage predicate (LSP field). -/
structure Level where
  lbeg : Word
  lend : Word
  lcnt : Word
  lflg : BitVec 34
  sp   : BitVec 8
  deriving DecidableEq, Repr

/-- The CSRs 0x020 to 0x035 (Tables 8.2, 8.3, 5.3), live or shadow. `rrb` holds bits [4:1]. -/
structure Loops where
  lact    : BitVec 4
  rrb     : BitVec 4
  cdepth  : BitVec 8
  levels  : List Level
  stripck : BitVec 40
  opn     : Bool
  sealed  : Bool
  rewinds : BitVec 4
  replay  : Bool
  deriving DecidableEq, Repr

/-- A strip checkpoint (R157). -/
structure Checkpoint where
  xs    : List (Nat × Word)
  vmt   : BitVec 12
  loops : Loops
  pc    : Word
  claim : Option (Word × Word)
  deriving DecidableEq, Repr

/-- STATUS to ESHADOW (Table 19.2) with LIVE and OVER (Table 19.3). -/
structure TrapRegs where
  dbga     : Bool
  psup     : Bool
  pte      : Bool
  sup      : Bool
  skip     : Bool
  te       : Bool
  tvec     : Word
  epc      : Word
  ecause   : BitVec 12
  eval     : Word
  eelem    : BitVec 13
  elane    : BitVec 5
  escratch : Word
  sel      : BitVec 8
  live     : Bool
  overrun  : Bool
  deriving DecidableEq, Repr

/-- A tile as a convoy found it at its issue (R209, R219): core, number, base and length. -/
structure TileUse where
  core : Nat
  tile : Nat
  base : Nat
  len  : Nat
  deriving DecidableEq, Repr

/-- A convoy in the queue (R68): its place, its words, when it entered, and what its issue fixed: the GRANT it runs under (R65) with the
clusters that names, mirrors included (R55), the tiles it uses, the effective length of a trimmed load (R219), what a slot met then that
stops it (R212, R254; log 58), panes a PCLAIM took and its answer (R187), HPROBE lines read (R260) and what a vector load before the HPROBE read for it (`loaded`, log 34),
operand-buffer bytes and queue entries reserved (R196, R204). -/
structure Convoy where
  pc       : Word
  next     : Word
  words    : List Instr
  age      : Nat
  issued   : Bool
  grant    : BitVec 8
  clusters : List Nat
  tiles    : List TileUse
  trim     : Option Nat
  refused  : Option (Nat × Stop)
  claimed : List Nat
  answer  : Word
  probes  : List (Nat × BitVec 512)
  loaded  : Option Nat
  bytes   : Nat
  entries : Nat
  deriving DecidableEq, Repr

/-- A stream or tile instruction in the stream queue (R223). -/
structure WqEntry where
  pc   : Word
  word : Instr
  deriving DecidableEq, Repr

/-- What a hart waits in (Table 19.5): a BAR above core scope on the counter at an address. -/
inductive Wait where
  | none
  | ordered
  | wfe (since : Nat)
  | qwait (handle : Nat) (count : Word)
  | qclose (handle : Nat)
  | fence (kind : FenceKind)
  | barDrain (scope : Scope) (counter : Nat)
  | bar (counter : Option Word) (gen : Nat)
  deriving DecidableEq, Repr

/-- A migration captured by HREHASH (R261), with the context and mode it was captured in, and when. -/
structure Migration where
  desc   : Word
  passes : Nat
  ctxid  : BitVec 16
  sup    : Bool
  age    : Nat
  deriving DecidableEq, Repr

/-- A migration failure held by the hart (R261). -/
structure HeldFailure where
  desc    : Word
  cause   : Cause
  address : Word
  deriving DecidableEq, Repr

/-- Agents that write memory (R268). -/
inductive Agent where
  | scalar (hart : Nat)
  | vector (hart : Nat)
  | hearth (die : Nat)
  | outside
  deriving DecidableEq, Repr

/-- A write accepted and not yet performed at its home (R269, R278), as the request it is in the fabric (R323): source
and target endpoints (dies), sequence number, route version, whether the target has performed it. `id` numbers writes in the order
of acceptance, `group` the store that a write is a copy of (R279), `waits` the writes that a fence put before it (R271); `shown`
says that it comes out of a strip store buffer, where either agent of its hart could read it (R158); `ctxid` is the context that its
address was translated in (R247, R311). -/
structure Write where
  id      : Nat
  group   : Nat
  agent   : Agent
  ctxid   : BitVec 16
  cells   : List Host.Cell
  mask    : Byte
  repl    : Bool
  atom    : Bool
  shown   : Bool
  waits   : List Nat
  source  : Nat
  target  : Nat
  seq     : BitVec 16
  version : BitVec 8
  done    : Bool
  deriving DecidableEq, Repr

/-- A farm claim that the pipeline made in memory for a strip head which was then discarded (R96, R160): context, descriptor, base and
length. The hart's next claim from the descriptor is that one (log 65). -/
structure KeptClaim where
  ctxid : BitVec 16
  desc  : Word
  base  : Word
  count : Nat
  deriving DecidableEq, Repr

/-- What a word that ran ahead of unfinished work left to be committed (R93): nothing beyond its own meaning, a store that is held, the
value that a load read, the grant of a strip head with its claim and, where the claim was not one put back or a remainder, the descriptor
that it was made from (R61, R160), or the entry of pushed work into its queue. -/
inductive AheadKind where
  | plain
  | store
  | load (xd : XReg) (value : Word)
  | head (grant : BitVec 8) (claim : Option (Word × Nat)) (desc : Option Word)
  | push (age : Nat)
  deriving DecidableEq, Repr

/-- A word that the scalar pipeline has executed behind unfinished work, its effects held (R93). -/
structure Ahead where
  pc   : Word
  word : Instr
  kind : AheadKind
  deriving DecidableEq, Repr

/-- The scalar pipeline of a hart where it stands ahead of unfinished work (R93): what the words it has executed would leave, and the
stores it holds. -/
structure Front where
  pc       : Word
  x        : List Word
  vl       : BitVec 13
  vt       : BitVec 11
  vlcap    : BitVec 13
  grant    : BitVec 8
  pmodeNow : Bool
  loops    : Loops
  xstrip   : Word
  held     : List Store
  deriving DecidableEq, Repr

/-- One hart. Its registers, PC and CSRs stand at the place of its oldest unfinished convoy or stream instruction in program order,
which is what that work reads (R28) and what a trap leaves (R96); `ahead` and `front` hold what the scalar pipeline has
executed behind it (R93; log 10). While a trap is asked for, `taking` is the time of the request, and `holding` says that a farm claim had
then been made ahead of the issued convoys, so that none of them is discarded (R292). -/
structure Hart where
  id       : Nat
  active   : Bool
  halted   : Bool
  stopped  : Bool
  task     : Nat
  groupid  : BitVec 16
  gprio    : Nat
  pc       : Word
  x        : List Word
  v        : List VReg
  k        : List (BitVec 4096)
  f        : List Word
  hf       : List Word
  vl       : BitVec 13
  vt       : BitVec 11
  vmt      : BitVec 12
  vlcap    : BitVec 13
  grant    : BitVec 8
  pmodeNow : Bool
  xexit    : Word
  xstrip   : Word
  fflags   : BitVec 5
  ctxid    : BitVec 16
  loops    : Loops
  shadow   : Loops
  ssb      : List Store
  closed   : List Store
  ckpt     : Option Checkpoint
  vdirty   : BitVec 48
  kdirty   : BitVec 12
  vstate   : BitVec 2
  trap     : TrapRegs
  dba      : List Word
  dbctl    : List (BitVec 32)
  pmode    : Bool
  retry    : BitVec 4
  monitor  : Option Nat
  event    : Bool
  convoys  : List Convoy
  squeue   : List WqEntry
  mq       : List Update
  streams  : List (Option Stream)
  migr     : List Migration
  heldFail : List HeldFailure
  wait     : Wait
  preempt  : Bool
  timer    : Bool
  taking   : Option Nat
  holding  : Bool
  skipNow  : Bool
  skipping : Bool
  slice    : Nat
  ahead    : List Ahead
  front    : Option Front
  claims   : List KeptClaim
  behind   : List Nat
  deriving DecidableEq, Repr

/-- A TLB entry (R245): context tag, first address, length, the leaf it holds. -/
structure TlbEntry where
  ctxid : BitVec 16
  va    : Nat
  size  : Nat
  leaf  : Word
  deriving DecidableEq, Repr

/-- A core-scope barrier count of one group (R276). -/
structure CoreBar where
  task    : Nat
  group   : BitVec 16
  gen     : Nat
  arrived : Nat
  deriving DecidableEq, Repr

/-- A word in a core's instruction cache (R2, R92): context, address, the page that it was fetched through, by its first address and
its size (R247), the word, and the harts of the core that may still be served it. -/
structure CachedWord where
  ctxid : BitVec 16
  va    : Word
  page  : Nat
  size  : Nat
  word  : Word32
  harts : BitVec 4
  deriving DecidableEq, Repr

/-- One core. `held` names, for each lane cluster, the hart (0 to 3) it has been released to (R55); `line` names the
harts whose GRANT names the cluster, that of a strip head executed ahead counted (log 10), in the order in which they are to hold it,
so that every hart after the first is one the cluster is owed to (R54). Operand-buffer occupancy (R196) is computed from the entries held. `id` is the HARTID of its hart 0 divided by 4. -/
structure Core where
  id       : Nat
  lanedis  : BitVec 8
  mismatch : List Nat
  panes    : List Pane
  tiles    : List Tile
  held     : List (Option Nat)
  line     : List (List Nat)
  rrGrant  : Nat
  rrIssue  : Nat
  bars     : List CoreBar
  tlb      : List TlbEntry
  icache   : List CachedWord
  deriving DecidableEq, Repr

/-- The sequence numbers of one endpoint pair (R323). -/
structure Channel where
  source : Nat
  target : Nat
  next   : BitVec 16
  expect : BitVec 16
  deriving DecidableEq, Repr

/-- Stages of a started packet (R315 to R322); a packet that has ended is listed no longer. -/
inductive PacketPhase where
  | running | killing
  deriving DecidableEq, Repr

/-- A kernel object as it stood at its packet's start (R318). -/
structure Kobj where
  entry  : Word
  sdm    : Word
  sdmLen : Nat
  vsp    : Word
  vspLen : Nat
  harts  : Nat
  deriving DecidableEq, Repr

/-- A packet that has started (R314): its queue, slot, header and body, for a LAUNCH the groups not yet dispatched and
the groups running, the cores it has installed its images on (R318), and how it is killed. `id` numbers started packets
and is the task's number. -/
structure Packet where
  id      : Nat
  die     : Nat
  queue   : Nat
  slot    : Nat
  body    : List Word
  ctxid   : BitVec 16
  waiting : List (Nat × Nat)
  live    : List Nat
  imaged  : List Nat
  kobj    : Kobj
  phase   : PacketPhase
  cause   : BitVec 8
  group   : BitVec 16
  deriving DecidableEq, Repr

/-- What a Hearth keeps of a queue that is not stopped: its STATE (1 running, 2 draining, 3 killing), the packets of the span
that have not ended, whether one of the span did not complete, whether it stops at an address that failed (R314, R315,
R322). -/
structure QueueRun where
  die    : Nat
  queue  : Nat
  state  : Nat
  span   : List Nat
  failed : Bool
  stop   : Bool
  deriving DecidableEq, Repr

/-- What a Hearth has yet to act on (R311, R314, R334): a scan of a queue for the packets found posted before the index `upto` when the scan
was asked for, or a write to its window. -/
inductive HearthRequest where
  | notify (die queue upto : Nat)
  | descriptor (die queue : Nat) (value : Word)
  | shootdown (die : Nat)
  | attestation (die : Nat)
  | snapshot (die : Nat)
  | contexts (ctxid : Nat)
  deriving DecidableEq, Repr

/-- A shootdown in progress (R247). -/
structure Shootdown where
  die    : Nat
  ctxid  : BitVec 16
  va     : Nat
  length : Nat
  deriving DecidableEq, Repr

/-- Kinds of events in the error log (R261, R296, R298, R314, R315, R318, R328, R335); the spec gives no codes (log 6). -/
inductive LogKind where
  | abort | mismatch | migration | slot | record | signal | copy | image | temperature | report
  deriving DecidableEq, Repr

/-- What a die's error log records of an event (Table 22.1): TIME, kind, location, requester (a HARTID or a die), CTXID. -/
structure LogEvent where
  die       : Nat
  time      : Nat
  kind      : LogKind
  location  : Nat
  requester : Nat
  ctxid     : Nat
  deriving DecidableEq, Repr

/-- What a hart reports of a fatal trap (R290): the new cause with its PC, EVAL, EELEM and ELANE, and the trap CSRs as they stand. -/
structure FatalReport where
  hart : Nat
  info : TrapInfo
  trap : TrapRegs
  deriving DecidableEq, Repr

/-- An external write in flight (R325): its flow, whether the flow is ROD, the port that carries it, where it goes. -/
structure Flight where
  flow  : Nat
  rod   : Bool
  port  : Nat
  die   : Nat
  off   : Nat
  bytes : List Byte
  deriving DecidableEq, Repr

/-- The device beyond its cores and memory. `cycle` is the CYCLE of every core (R74); `poison` names the bytes that hold an
uncorrectable error (R296); `routes` the next tables, next die from die a towards die b at 6 a + b (R324). -/
structure Dev where
  harvest    : List (BitVec 36)
  time       : Nat
  cycle      : Nat
  steps      : Nat
  writes     : List Write
  nextWrite  : Nat
  poison     : List Nat
  errors     : List LogEvent
  fatals     : List FatalReport
  channels   : List Channel
  rver       : BitVec 8
  live       : BitVec 15
  fails      : BitVec 32
  lost       : BitVec 6
  routes     : List Nat
  ports      : BitVec 12
  flights    : List Flight
  replies    : List (Nat × List Byte)
  packets    : List Packet
  nextPacket : Nat
  queues     : List QueueRun
  turns      : List Nat
  requests   : List HearthRequest
  shootdowns : List Shootdown
  snapshot   : Option Nat
  snapHeld   : Bool
  bringUp    : Nat
  throttled  : Bool
  tlb2       : List (Nat × TlbEntry)
  deriving DecidableEq, Repr

/-- What a debugger writes of a halted hart (R302): its PC, an X register, a vector register with its tag, a mask, an F or H register, a
CSR. -/
inductive DebugWrite where
  | pc (v : Word)
  | x (r : XReg) (v : Word)
  | v (n : Nat) (r : VReg)
  | k (n : Nat) (m : BitVec 4096)
  | f (n : Nat) (v : Word)
  | hf (n : Nat) (v : Word)
  | csr (n : BitVec 12) (v : Word)
  deriving DecidableEq, Repr

/-- What an agenda may call for next (log 1): a hart's turn, an event, one word of the hart's scalar pipeline ahead of unfinished
work (R93), the fetch of a word ahead of its turn (R92), a protected-mode mismatch of an element of a slot of the hart's convoy, in
its address or datum or in its result (R298), an uncorrectable error of `n` bytes (R296), a write of a debugger (R302). -/
inductive Move where
  | run (hart : Nat)
  | event (i : Instr)
  | ahead (hart : Nat)
  | prefetch (hart : Nat) (address : Word)
  | mismatch (hart slot element : Nat) (operand : Bool)
  | poison (key n : Nat)
  | debug (hart : Nat) (w : DebugWrite)
  deriving DecidableEq, Repr

/-- The machine. `agenda`, `forwarding`, `stale` and `asyncFirst` are the model's own (log 1, log 9, log 12). -/
structure State where
  h          : Hart
  core       : Core
  harts      : List Hart
  cores      : List Core
  dev        : Dev
  mem        : Memory
  agenda     : List Move
  forwarding : Bool
  stale      : Bool
  asyncFirst : Bool
  deriving DecidableEq, Repr

/-! ### Reset -/

/-- A free pane (R184). -/
def freePane : Pane :=
  { owner := none, ty := .none, failed := false, chain := 0, rows := List.replicate 16 0 }

/-- A free tile entry (R207, Table 12.3). -/
def freeTile : Tile :=
  { alloc := false, state := .empty, base := 0, len := 0, owner := 0, task := 0, bound := false, stream := 0, hart := 0,
    expected := 0, arrived := 0, next := 0, buffer := [] }

/-- The kernel object of a packet that has none. -/
def noKobj : Kobj := { entry := 0, sdm := 0, sdmLen := 0, vsp := 0, vspLen := 0, harts := 1 }

/-- An inactive loop level (R144). -/
def freeLevel : Level := { lbeg := 0, lend := 0, lcnt := 0, lflg := 0, sp := 0 }

/-- The loop CSRs at dispatch (R144). -/
def clearLoops : Loops :=
  { lact := 0, rrb := 0, cdepth := 0, levels := List.replicate 4 freeLevel, stripck := 0, opn := false, sealed := false,
    rewinds := 0, replay := false }

/-- The trap registers at reset (Table 19.2): TE 1, every other field 0. -/
def clearTrap : TrapRegs :=
  { dbga := false, psup := false, pte := false, sup := false, skip := false, te := true, tvec := 0, epc := 0, ecause := 0,
    eval := 0, eelem := 0, elane := 0, escratch := 0, sel := 0, live := false, overrun := false }

/-- Hart number `id` (its HARTID) before any dispatch: the reset values of the CSR tables, VSTATE 1, RETRY 1, and 0 where
the spec gives none (log 2). -/
def resetHart (id : Nat) : Hart :=
  { id := id, active := false, halted := false, stopped := false, task := 0, groupid := 0, gprio := 0, pc := 0,
    x := List.replicate 32 0, v := List.replicate 48 { bits := 0, tag := 0 }, k := List.replicate 12 0,
    f := List.replicate 8 0, hf := List.replicate 4 0, vl := 0, vt := 0, vmt := 0, vlcap := 0, grant := 0,
    pmodeNow := false, xexit := 0, xstrip := 0, fflags := 0, ctxid := 0, loops := clearLoops, shadow := clearLoops,
    ssb := [], closed := [], ckpt := none, vdirty := 0, kdirty := 0, vstate := 1, trap := clearTrap, dba := List.replicate 8 0,
    dbctl := List.replicate 8 0, pmode := false, retry := 1, monitor := none, event := false, convoys := [], squeue := [],
    mq := [], streams := List.replicate 16 none, migr := [], heldFail := [], wait := .none, preempt := false,
    timer := false, taking := none, holding := false, skipNow := false, skipping := false, slice := 0, ahead := [], front := none, claims := [], behind := [] }

/-- Core number `id` at core reset (R207, R299, Table 4.5). -/
def resetCore (id : Nat) : Core :=
  { id := id, lanedis := 0, mismatch := List.replicate 16 0, panes := List.replicate 48 freePane, tiles := List.replicate 64 freeTile, held := List.replicate 8 none, line := List.replicate 8 [], rrGrant := 0,
    rrIssue := 0, bars := [], tlb := [], icache := [] }

/-- The next tables with every link alive: from each die straight to each other (R324). -/
def directRoutes : List Nat := (List.range 36).map (· % 6)

/-- The device at reset: every core of every die enabled (log 5), every link alive (Table 22.2), the Ethernet ports not yet up (R328),
nothing under way. -/
def resetDev : Dev :=
  { harvest := List.replicate 6 (BitVec.allOnes 36), time := 0, cycle := 0, steps := 0, writes := [], nextWrite := 0,
    poison := [], errors := [], fatals := [], channels := [], rver := 0,
    live := BitVec.allOnes 15, fails := 0, lost := 0, routes := directRoutes, ports := 0, flights := [], replies := [],
    packets := [], nextPacket := 1, queues := [], turns := List.replicate 48 63, requests := [], shootdowns := [], snapshot := none, snapHeld := false,
    bringUp := 0, throttled := false, tlb2 := [] }

/-- The machine right after reset: no group dispatched, nothing under way, memory with nothing listed. -/
def State.reset : State :=
  { h := resetHart 0, core := resetCore 0, harts := [], cores := [], dev := resetDev, mem := [], agenda := [],
    forwarding := false, stale := false, asyncFirst := true }

end Sys2Proof.Machine
end

