-- ==== Sys2Proof/Machine/Bits.lean ====
section
/-!
DEFINITION. Sys2Proof/Machine/Bits.lean: bit and byte helpers, memory as a canonical list, elements of vector registers.
Memory map: R205, R237, R311; byte order: R14, R82, R98 (little-endian).
-/
namespace Sys2Proof.Machine

/-! ### Numbers -/

/-- The signed number that the low `w` bits of `a` spell (R105). -/
def toSigned (w a : Nat) : Int :=
  if a % 2 ^ w < 2 ^ (w - 1) then ((a % 2 ^ w : Nat) : Int) else ((a % 2 ^ w : Nat) : Int) - 2 ^ w

/-- The `w` bits of a number, modulo 2^w. -/
def ofInt (w : Nat) (i : Int) : Nat := (i % (2 ^ w : Int)).toNat

/-- Ceiling of `a / b`. -/
def ceilDiv (a b : Nat) : Nat := (a + b - 1) / b

/-- Number of set bits among the low `n` bits. -/
def popcount : Nat → Nat → Nat
  | 0, _ => 0
  | n + 1, a => a % 2 + popcount n (a / 2)

/-- Number of trailing zero bits among the low `n` bits (R76). -/
def countTrailing : Nat → Nat → Nat
  | 0, _ => 0
  | n + 1, a => if a % 2 = 1 then 0 else 1 + countTrailing n (a / 2)

/-- Number of leading zero bits of an `n`-bit number (R76). -/
def countLeading : Nat → Nat → Nat
  | 0, _ => 0
  | n + 1, a => if a / 2 ^ n % 2 = 1 then 0 else 1 + countLeading n a

/-- The bits [lo + n - 1 : lo] of a word. -/
def field (w : Word) (lo n : Nat) : Nat := w.toNat / 2 ^ lo % 2 ^ n

/-- Bit `i` of a number. -/
def bitAt (a i : Nat) : Bool := a / 2 ^ i % 2 == 1

/-- The numbers from 0 to n - 1, ascending. -/
def upTo (n : Nat) : List Nat := List.range n

/-- Position of the lowest set bit below `n`, if any. -/
def lowestBit (n a : Nat) : Option Nat := (upTo n).find? (bitAt a)

/-! ### Memory -/

/-- Key of a byte of device memory (R237): die and 37-bit offset. -/
def devKey (die off : Nat) : Nat := die * 2 ^ 37 + off

/-- Key of a byte of the local map of core `core` (R205), above all device memory. -/
def localKey (core off : Nat) : Nat := 2 ^ 40 + core * 2 ^ 22 + off

/-- The die a device-memory key lies on. -/
def dieOfKey (k : Nat) : Nat := k / 2 ^ 37

/-- Is the key one of device memory? -/
def isDevKey (k : Nat) : Bool := k < 6 * 2 ^ 37

/-- First offset of a die's Hearth window (R311). -/
def windowBase : Nat := 0x1FFFF00000

/-- Key of a byte of die `die`'s Hearth window. -/
def windowKey (die w : Nat) : Nat := devKey die (windowBase + w)

/-- What a byte of a Hearth window reads as when nothing has been written there: the reset values of Tables 22.2 and 22.6
(LIVE 0x7FFF; RETRY 1 in each context entry of die 0) and, per part, HARVEST and the logical core table of a die with all
36 cores enabled (log 5); 0 elsewhere (log 4). -/
def windowBlank (die w : Nat) : Byte :=
  if w < 4 then 0xFF
  else if w = 4 then 0x0F
  else if w = 9 then 0xFF
  else if w = 10 then 0x7F
  else if 0x40 ≤ w ∧ w < 0x80 then (if w - 0x40 < 36 then BitVec.ofNat 8 (w - 0x40) else 0xFF)
  else if die = 0 ∧ 0x20000 ≤ w ∧ w < 0x28000 ∧ w % 32 = 20 then 0x04
  else 0

/-- What an unlisted address reads as (log 4). -/
def Memory.blank (k : Nat) : Byte :=
  if isDevKey k ∧ windowBase ≤ k % 2 ^ 37 then windowBlank (dieOfKey k) (k % 2 ^ 37 - windowBase) else 0

/-- The byte at a key. -/
def Memory.read : Memory → Nat → Byte
  | [], k => Memory.blank k
  | (a, b) :: m, k => if a = k then b else if k < a then Memory.blank k else Memory.read m k

/-- Put an entry in front unless it says what an unlisted address reads as. -/
def Memory.cons (k : Nat) (b : Byte) (m : Memory) : Memory := if b = Memory.blank k then m else (k, b) :: m

/-- Write one byte, keeping the canonical form. -/
def Memory.write : Memory → Nat → Byte → Memory
  | [], k, b => Memory.cons k b []
  | (a, c) :: m, k, b =>
    if a = k then Memory.cons k b m
    else if k < a then Memory.cons k b ((a, c) :: m)
    else (a, c) :: Memory.write m k b

/-- Write cells in order. -/
def Memory.writes (m : Memory) (cs : List Host.Cell) : Memory := cs.foldl (fun m c => m.write c.1 c.2) m

/-- The canonical form: addresses strictly rising above `lo`, no entry that says what an unlisted address reads as. -/
def Memory.wfFrom : Nat → Memory → Bool
  | _, [] => true
  | lo, (a, b) :: m => lo ≤ a && b != Memory.blank a && Memory.wfFrom (a + 1) m

/-- The canonical form of memory. -/
def Memory.wf (m : Memory) : Bool := Memory.wfFrom 0 m

/-- `n` bytes, little-endian, through a reader of single bytes. -/
def readLE (rd : Nat → Byte) (k : Nat) : Nat → Nat
  | 0 => 0
  | n + 1 => (rd k).toNat + 256 * readLE rd (k + 1) n

/-- The cells of an `n`-byte little-endian value. -/
def cellsOf (k : Nat) : Nat → Nat → List Host.Cell
  | 0, _ => []
  | n + 1, v => (k, BitVec.ofNat 8 v) :: cellsOf (k + 1) n (v / 256)

/-- The doubleword at a key of memory. -/
def Memory.dword (m : Memory) (k : Nat) : Word := BitVec.ofNat 64 (readLE m.read k 8)

/-! ### Elements of vector registers (R98, R99) -/

/-- Element `e` at width `w` of register bits. -/
def elemOf (w : Nat) (b : BitVec 8192) (e : Nat) : Nat := b.toNat / 2 ^ (w * e) % 2 ^ w

/-- Element `e` at width `w`; bits at and above the tag read as zero (R99). -/
def VReg.elem (r : VReg) (w e : Nat) : Nat := elemOf w (r.bits &&& BitVec.ofNat 8192 (2 ^ r.tag - 1)) e

/-- The number whose `n` elements of width `w`, from element `i` on, are given by `f`. -/
def packFrom (w : Nat) (f : Nat → Nat) (i : Nat) : Nat → Nat
  | 0 => 0
  | n + 1 => f i % 2 ^ w + 2 ^ w * packFrom w f (i + 1) n

/-- The number whose elements of width `w` a list gives. -/
def packList (w : Nat) : List Nat → Nat
  | [] => 0
  | a :: l => a % 2 ^ w + 2 ^ w * packList w l

/-- A register whose elements 0 to n - 1 of width `w` are `f`, with tag n * w (R99). -/
def VReg.build (w n : Nat) (f : Nat → Nat) : VReg := { bits := BitVec.ofNat 8192 (packFrom w f 0 n), tag := n * w }

/-- A mask register whose bits 0 to n - 1 are `f` and whose other bits are 0 (R129). -/
def buildMask (n : Nat) (f : Nat → Bool) : BitVec 4096 :=
  BitVec.ofNat 4096 (packFrom 1 (fun e => if f e then 1 else 0) 0 n)

/-! ### Lists by number -/

/-- Replace element `i` by `f` of it. -/
def modAt {α : Type} (f : α → α) : Nat → List α → List α
  | _, [] => []
  | 0, a :: l => f a :: l
  | i + 1, a :: l => a :: modAt f i l

/-- Remove element `i`. -/
def dropAt {α : Type} : Nat → List α → List α
  | _, [] => []
  | 0, _ :: l => l
  | i + 1, a :: l => a :: dropAt i l

end Sys2Proof.Machine
end

