-- ==== Sys2Proof/Machine/Ops.lean ====
section
/-!
DEFINITION. Sys2Proof/Machine/Ops.lean: the named operations over registers, harts, cores and memory; address translation;
what a Hearth reads of queues and slots (R313, R314, R335); accepting, ordering and performing writes; strips and back edges; taking a
trap and returning from one. Rules are cited at each definition.
-/
namespace Sys2Proof.Machine

/-! ### The parts of the state -/

/-- Change the hart in hand. -/
def State.mapH (s : State) (f : Hart → Hart) : State := { s with h := f s.h }

/-- Change the core of the hart in hand. -/
def State.mapCore (s : State) (f : Core → Core) : State := { s with core := f s.core }

/-- Change the device. -/
def State.mapDev (s : State) (f : Dev → Dev) : State := { s with dev := f s.dev }

/-- Keep a hart in a list ordered by HARTID. -/
def putHart (h : Hart) : List Hart → List Hart
  | [] => [h]
  | a :: l => if a.id = h.id then h :: l else if h.id < a.id then h :: a :: l else a :: putHart h l

/-- Keep a core in a list ordered by number. -/
def putCore (c : Core) : List Core → List Core
  | [] => [c]
  | a :: l => if a.id = c.id then c :: l else if c.id < a.id then c :: a :: l else a :: putCore c l

/-- The hart with HARTID `id`; one never dispatched stands as reset leaves it. -/
def State.hartOf (s : State) (id : Nat) : Hart :=
  if s.h.id = id then s.h else (s.harts.find? (·.id == id)).getD (resetHart id)

/-- The core `id`. -/
def State.coreOf (s : State) (id : Nat) : Core :=
  if s.core.id = id then s.core else (s.cores.find? (·.id == id)).getD (resetCore id)

/-- Bring the hart `id` and its core to hand. -/
def State.focus (s : State) (id : Nat) : State :=
  if s.h.id = id then s
  else
    let c := if s.core.id = id / 4 then s.core else s.coreOf (id / 4)
    { s with h := s.hartOf id, harts := putHart s.h (s.harts.filter (·.id != id)), core := c,
             cores := if s.core.id = id / 4 then s.cores else putCore s.core (s.cores.filter (·.id != id / 4)) }

/-- Change hart `id`. -/
def State.onHart (s : State) (id : Nat) (f : Hart → Hart) : State :=
  if s.h.id = id then s.mapH f else { s with harts := putHart (f (s.hartOf id)) s.harts }

/-- Change core `id`. -/
def State.onCore (s : State) (id : Nat) (f : Core → Core) : State :=
  if s.core.id = id then s.mapCore f else { s with cores := putCore (f (s.coreOf id)) s.cores }

/-- Change every hart that any step has touched. -/
def State.mapHarts (s : State) (f : Hart → Hart) : State := { s with h := f s.h, harts := s.harts.map f }

/-- Every hart that any step has touched. -/
def State.allHarts (s : State) : List Hart := s.h :: s.harts

/-- The four harts of core `c`. -/
def State.hartsOfCore (s : State) (c : Nat) : List Hart := (upTo 4).map (fun i => s.hartOf (4 * c + i))

/-- Die of a hart (Table 5.3). -/
def dieOfHart (id : Nat) : Nat := id / 2048

/-! ### General registers and vector registers -/

/-- X[r]; X0 reads as zero (R71). -/
def Hart.rx (h : Hart) (r : XReg) : Word := if r = 0 then 0 else h.x.getD r.toNat 0

/-- Write X[r]; a write to X0 is discarded (R71). -/
def Hart.wx (h : Hart) (r : XReg) (v : Word) : Hart := if r = 0 then h else { h with x := h.x.set r.toNat v }

/-- Write X[r] of the hart in hand. -/
def State.setX (s : State) (r : XReg) (v : Word) : State := s.mapH (·.wx r v)

/-- Number of set bits of GRANT. -/
def Hart.clusters (h : Hart) : Nat := popcount 8 h.grant.toNat

/-- VL as a number. -/
def Hart.vln (h : Hart) : Nat := h.vl.toNat

/-- Width in bits that a SEW code names (Table 4.3). -/
def sewBits (code : Nat) : Nat := 2 ^ (code + 1)

/-- VT fields (Table 4.3). -/
def vtSew (vt : BitVec 11) : Nat := sewBits (vt.toNat % 8)
def vtFmt (vt : BitVec 11) : Nat := vt.toNat / 8 % 8
def vtBlkCode (vt : BitVec 11) : Nat := vt.toNat / 64 % 8
def vtRm (vt : BitVec 11) : Nat := vt.toNat / 512 % 4

/-- Block size that a BLK code names (Table 4.3). -/
def blockSize (code : Nat) : Nat := if code = 0 then 1 else 2 ^ (code + 2)

/-- Block size of a VT. -/
def vtBlock (vt : BitVec 11) : Nat := blockSize (vtBlkCode vt)

/-- SEW of the hart in bits. -/
def Hart.sew (h : Hart) : Nat := vtSew h.vt

/-- The granted cluster that processes element group `j`: the (j mod g)-th set bit of GRANT (R65). -/
def grantCluster (grant : BitVec 8) (j : Nat) : Nat :=
  let cs := (upTo 8).filter (bitAt grant.toNat)
  cs.getD (j % cs.length) 0

/-- The lane of element `e` at width `w`: 4 * cluster + lane in cluster (R65). -/
def laneOf (grant : BitVec 8) (w e : Nat) : Nat := 4 * grantCluster grant (e * w / 256) + e * w % 256 / 64

/-! ### Loop fields (Table 8.3) -/

def Level.stages (l : Level) : Nat := l.lflg.toNat % 8 + 1
def Level.rot (l : Level) : Bool := l.lflg.getLsbD 3
def Level.strip (l : Level) : Bool := l.lflg.getLsbD 4
def Level.farm (l : Level) : Bool := l.lflg.getLsbD 5
def Level.ldep (l : Level) : BitVec 8 := l.lflg.extractLsb' 8 8
def Level.xreg (l : Level) : XReg := l.lflg.extractLsb' 16 5
def Level.svl (l : Level) : Nat := l.lflg.toNat / 2 ^ 21 % 2 ^ 13

/-- LFLG from its fields. -/
def mkLflg (stages : Nat) (rot strip farm : Bool) (ldep : BitVec 8) (xreg : XReg) (svl : Nat) : BitVec 34 :=
  BitVec.ofNat 34 (stages - 1 + 8 * rot.toNat + 16 * strip.toNat + 32 * farm.toNat + 2 ^ 8 * ldep.toNat
    + 2 ^ 16 * xreg.toNat + 2 ^ 21 * svl)

/-- Replace SVL. -/
def Level.withSvl (l : Level) (svl : Nat) : Level :=
  { l with lflg := mkLflg l.stages l.rot l.strip l.farm l.ldep l.xreg svl }

/-- Number of active levels (R143). -/
def Loops.depth (l : Loops) : Nat := popcount 4 l.lact.toNat

/-- Level `n`. -/
def Loops.level (l : Loops) (n : Nat) : Level := l.levels.getD n freeLevel

/-- The active levels with their numbers, outermost first. -/
def Loops.active (l : Loops) : List (Nat × Level) := (upTo l.depth).map (fun n => (n, l.level n))

/-- The innermost level, if it is at the current depth (R143). -/
def Loops.inner (l : Loops) : Option (Nat × Level) :=
  match l.depth with
  | 0 => none
  | n + 1 => if (l.level n).ldep = l.cdepth then some (n, l.level n) else none

/-- The active levels at the current depth. -/
def Loops.here (l : Loops) : List (Nat × Level) := l.active.filter (fun p => p.2.ldep == l.cdepth)

/-- The strip level at the current depth, if any (R157). -/
def Loops.stripLevel (l : Loops) : Option (Nat × Level) := l.here.find? (fun p => p.2.strip)

/-- Is a rotating level at the current depth (R152)? -/
def Loops.rotating (l : Loops) : Bool := l.here.any (fun p => p.2.rot)

/-- The physical register that name `n` denotes (R152). -/
def Loops.physical (l : Loops) (n : Nat) : Nat :=
  if l.rotating ∧ 16 ≤ n then 16 + (n - 16 + 2 * l.rrb.toNat) % 32 else n

/-- Set level `n`. -/
def Loops.setLevel (l : Loops) (n : Nat) (v : Level) : Loops := { l with levels := l.levels.set n v }

/-! ### Address translation (R239 to R246) -/

/-- Entry of the context table (Table 22.6): dwords 0, 1, 2, 3 of context `c`. -/
def State.contextDword (s : State) (c i : Nat) : Word := s.mem.dword (windowKey 0 (0x20000 + 32 * c + 8 * i))

/-- Is a context's entry good (R242)? -/
def State.contextOk (s : State) (c : Nat) : Bool :=
  let d0 := s.contextDword c 0
  let d2 := s.contextDword c 2
  c < 1024 && bitAt d2.toNat 32 && d0.toNat < 2 ^ 40 && d2.toNat < 2 ^ 39 && (s.contextDword c 3 == 0)
    && field d0 37 3 < 6 && field d0 0 37 % 2 ^ 21 == 0

/-- Low address bit and number of index bits of a table level (Table 14.1). -/
def levelShift (level : Nat) : Nat := match level with | 0 => 39 | 1 => 30 | 2 => 21 | _ => 16
def levelBits (level : Nat) : Nat := match level with | 0 => 18 | 1 => 9 | 2 => 9 | _ => 5

/-- Alignment of the table that a pointer at `level` names (Table 14.1). -/
def nextTableSize (level : Nat) : Nat := match level with | 0 => 4096 | 1 => 4096 | _ => 256

/-- The checks of R242 on one entry. -/
def entryOk (level : Nat) (e : Word) : Bool :=
  let leaf := bitAt e.toNat 1
  bitAt e.toNat 0 && e.toNat < 2 ^ 40 && field e 37 3 < 6
    && (if leaf then
          level != 0 && field e 8 29 * 256 % 2 ^ levelShift level == 0
            && !(bitAt e.toNat 7 && (field e 37 3 != 0 || bitAt e.toNat 6))
        else level != 3 && field e 6 2 == 0 && field e 8 29 * 256 % nextTableSize level == 0)

/-- Does an uncorrectable error lie in `n` bytes at key `k` (R296)? -/
def State.poisoned (s : State) (k n : Nat) : Bool := s.dev.poison.any (fun a => k ≤ a && a < k + n)

/-- Does a read of `n` bytes at a place end in an abort completion: the memory of a lost die (R324), or an uncorrectable
error (R296)? -/
def State.aborts (s : State) (k n : Nat) : Bool := (isDevKey k && s.dev.lost.getLsbD (dieOfKey k)) || s.poisoned k n

/-- Does the read of a context's entry end in an abort completion (R242, R296; log 60)? -/
def State.contextAborts (s : State) (c : Nat) : Bool := c < 1024 && s.aborts (windowKey 0 (0x20000 + 32 * c)) 32

/-- A dword of a context's entry as a Hearth takes it for a dispatch or a quantum: one that is withheld counts as 0 (log 60). -/
def State.contextField (s : State) (c i : Nat) : Word := if s.contextAborts c then 0 else s.contextDword c i

/-- The walk from a table at die `die`, offset `off`, for `va`, through at most `fuel` levels: the leaf and its level. -/
def State.walk (s : State) (va : Nat) : Nat → Nat → Nat → Nat → Except Denial (Word × Nat)
  | 0, _, _, _ => .error .page
  | fuel + 1, level, die, off =>
    let k := devKey die (off + 8 * (va / 2 ^ levelShift level % 2 ^ levelBits level))
    if s.aborts k 8 then .error .abort
    else
      let e := s.mem.dword k
      if !entryOk level e then .error .page
      else if bitAt e.toNat 1 then .ok (e, level)
      else State.walk s va fuel (level + 1) (field e 37 3) (field e 8 29 * 256)

/-- The die at which that walk ends: of an entry that aborts or is refused, or of the page, for an access from die `own`. -/
def State.walkDie (s : State) (va own : Nat) : Nat → Nat → Nat → Nat → Nat
  | 0, _, die, _ => die
  | fuel + 1, level, die, off =>
    let k := devKey die (off + 8 * (va / 2 ^ levelShift level % 2 ^ levelBits level))
    let e := s.mem.dword k
    if s.aborts k 8 || !entryOk level e then die
    else if bitAt e.toNat 1 then (if bitAt e.toNat 7 then own else field e 37 3)
    else State.walkDie s va own fuel (level + 1) (field e 37 3) (field e 8 29 * 256)

/-- The leaf that maps `va` in context `c`, by a walk (R239, R242). -/
def State.leafOf (s : State) (c : Nat) (va : Word) : Except Denial (Word × Nat) :=
  if 2 ^ 57 ≤ va.toNat then .error .page
  else if s.contextAborts c then .error .abort
  else if !s.contextOk c then .error .page
  else
    let d0 := s.contextDword c 0
    s.walk va.toNat 4 0 (field d0 37 3) (field d0 0 37)

/-- The dies whose memory a walk from a table reads, in order. -/
def State.walkReads (s : State) (va : Nat) : Nat → Nat → Nat → Nat → List Nat
  | 0, _, _, _ => []
  | fuel + 1, level, die, off =>
    let k := devKey die (off + 8 * (va / 2 ^ levelShift level % 2 ^ levelBits level))
    let e := s.mem.dword k
    die :: (if s.aborts k 8 || !entryOk level e || bitAt e.toNat 1 then []
      else State.walkReads s va fuel (level + 1) (field e 37 3) (field e 8 29 * 256))

/-- The dies that the walk of context `c` for `va` reads: die 0, which holds the context table, and those of its tables. -/
def State.leafReads (s : State) (c : Nat) (va : Word) : List Nat :=
  if 2 ^ 57 ≤ va.toNat ∨ 1024 ≤ c then []
  else 0 :: (if s.contextAborts c || !s.contextOk c then []
    else s.walkReads va.toNat 4 0 (field (s.contextDword c 0) 37 3) (field (s.contextDword c 0) 0 37))

/-- The number of a core's cluster, 0 to 53 (R312): by its physical core, which is the one of its logical number. -/
def State.clusterOf (s : State) (core : Nat) : Nat :=
  let on := (upTo 36).filter (fun p => (s.dev.harvest.getD (core / 512) 0).getLsbD p)
  core / 512 * 9 + on.getD (core % 512) 0 / 4

/-- Does an entry map address `va` of context `c`? -/
def TlbEntry.hits (c : BitVec 16) (va : Word) (t : TlbEntry) : Bool := t.ctxid == c && t.va ≤ va.toNat && va.toNat < t.va + t.size

/-- The TLB entry of the hart's core or cluster that maps `va`, if any (R245). -/
def State.tlbFind (s : State) (c : BitVec 16) (va : Word) : Option TlbEntry :=
  match s.core.tlb.find? (·.hits c va) with
  | some t => some t
  | none => (s.dev.tlb2.find? (fun p => p.1 == s.clusterOf s.core.id && p.2.hits c va)).map (·.2)

/-- Is the access permitted by the leaf (R243)? -/
def permitted (leaf : Word) (a : Access) (sup : Bool) : Bool :=
  let r := bitAt leaf.toNat 2
  let w := bitAt leaf.toNat 3
  let x := bitAt leaf.toNat 4
  let u := bitAt leaf.toNat 5
  match a with
  | .fetch => x && (if sup then !u else u)
  | .load => r && (sup || u)
  | .store => w && (sup || u)
  | .atomic => r && w && (sup || u) && !bitAt leaf.toNat 7

/-- Where a leaf of `size` bytes leads for `va`, from die `die` (R244). -/
def placeOf (leaf : Word) (size : Nat) (va : Word) (die : Nat) : Place :=
  let repl := bitAt leaf.toNat 7
  { key := devKey (if repl then die else field leaf 37 3) (field leaf 8 29 * 256 + va.toNat % size), repl := repl,
    atom := bitAt leaf.toNat 6 }

/-- The leaf that serves an access of context `c`, and the bytes that it maps. A TLB may serve an entry that the tables no longer hold when
the state so chooses (R246; log 9), but none in a context whose entry refuses every translation (R242). -/
def State.leafFor (s : State) (c : BitVec 16) (va : Word) : Except Denial (Word × Nat) :=
  match (if s.stale then s.tlbFind c va else none) with
  | some t => if !s.contextAborts c.toNat && !s.contextOk c.toNat then .error .page else .ok (t.leaf, t.size)
  | none => match s.leafOf c.toNat va with
    | .ok (e, level) => .ok (e, 2 ^ levelShift level)
    | .error d => .error d

/-- Translate an access of context `c` in the mode `sup` from the die of the hart in hand. -/
def State.translateAs (s : State) (c : BitVec 16) (sup : Bool) (a : Access) (va : Word) : Except Denial Place :=
  match s.leafFor c va with
  | .error d => .error d
  | .ok (leaf, size) =>
    if !permitted leaf a sup then .error .perm else .ok (placeOf leaf size va (dieOfHart s.h.id))

/-- Translate an access of the hart in hand. -/
def State.translate (s : State) (a : Access) (va : Word) : Except Denial Place :=
  s.translateAs s.h.ctxid s.h.trap.sup a va

/-! ### Requests in the fabric (R323) -/

/-- The channel of an endpoint pair (R323; log 45: a die is one endpoint, the walkers and fetches of its cores are another, its Hearth is a
third). -/
def Dev.channel (d : Dev) (a b : Nat) : Channel :=
  (d.channels.find? (fun c => c.source == a && c.target == b)).getD { source := a, target := b, next := 0, expect := 0 }

/-- Keep a channel. -/
def Dev.setChannel (d : Dev) (c : Channel) : Dev :=
  { d with channels := c :: d.channels.filter (fun e => !(e.source == c.source && e.target == c.target)) }

/-- A request of an agent other than a store crosses to another die: it takes the next number of its endpoint pair (R323). -/
def State.request (s : State) (src dst : Nat) : State :=
  if src = dst then s
  else s.mapDev (fun d => d.setChannel { d.channel src dst with next := (d.channel src dst).next + 1,
                                                                expect := (d.channel src dst).expect + 1 })

/-- The endpoints of the walkers and fetches of a die's cores, and of its Hearth (log 45). -/
def walkerOf (die : Nat) : Nat := 8 + die
def hearthOf (die : Nat) : Nat := 16 + die

/-- An endpoint of die `own` has read the memory of some dies, one request each to those beyond its own (R323). -/
def State.asked (s : State) (endpoint own : Nat) (dies : List Nat) : State :=
  dies.foldl (fun s d => if d = own then s else s.request endpoint d) s

/-! ### TLBs (R245) -/

/-- Put an entry into a TLB that holds `n`; one it covers already is replaced. A full TLB gives up the entry that entered first (DESIGN
CHOICE, log 59: R245 gives no order of replacement). -/
def putTlb (n : Nat) (t : TlbEntry) (l : List TlbEntry) : List TlbEntry :=
  (t :: l.filter (fun o => !(o.ctxid == t.ctxid && o.va < t.va + t.size && t.va < o.va + o.size))).take n

/-- A leaf enters the core's TLB of 192 entries and its cluster's of 4,096 (R245). -/
def State.enterTlb (s : State) (t : TlbEntry) : State :=
  let c := s.clusterOf s.core.id
  let mine := (s.dev.tlb2.filter (fun p => p.1 == c)).map (·.2)
  (s.mapCore (fun k => { k with tlb := putTlb 192 t k.tlb })).mapDev (fun d =>
    { d with tlb2 := (putTlb 4096 t mine).map (fun e => (c, e)) ++ d.tlb2.filter (fun p => p.1 != c) })

/-- The requests of a walk for the hart in hand (R242, R323). -/
def State.walkAsked (s : State) (c : BitVec 16) (a : Word) : State :=
  s.asked (walkerOf (dieOfHart s.h.id)) (dieOfHart s.h.id) (s.leafReads c.toNat a)

/-- A walk of context `c` for address `a`: one that ends in a valid leaf enters it (R242, R245). -/
def State.walkedAs (s : State) (c : BitVec 16) (a : Word) : State :=
  match s.leafOf c.toNat a with
  | .error _ => s.walkAsked c a
  | .ok (e, level) =>
    let size := 2 ^ levelShift level
    (s.walkAsked c a).enterTlb { ctxid := c, va := a.toNat / size * size, size := size, leaf := e }

/-- May an access have been served by an entry: may any be (R246), or is it what a walk finds now? -/
def State.serves (s : State) (c : BitVec 16) (a : Word) (t : TlbEntry) : Bool :=
  s.stale || (match s.leafOf c.toNat a with
    | .ok (e, level) => e == t.leaf && 2 ^ levelShift level == t.size
    | .error _ => true)

/-- What a translation of an address leaves (R245): the entry that serves it, unless the core's holds that one. Where the access walked, since
the entry held is no longer what the tables say, the leaf that it found takes the entry's place. -/
def State.enteredAs (s : State) (c : BitVec 16) (a : Word) : State :=
  match s.tlbFind c a with
  | none => s.walkedAs c a
  | some t =>
    if !s.serves c a t then s.walkedAs c a
    else if s.core.tlb.any (·.hits c a) then s
    else s.mapCore (fun k => { k with tlb := putTlb 192 t k.tlb })

/-- What a translation for the hart in hand leaves. -/
def State.entered (s : State) (a : Word) : State := s.enteredAs s.h.ctxid a

/-- What translations of several addresses leave, in a context, and for the hart in hand. -/
def State.enteredFor (s : State) (c : BitVec 16) (as : List Word) : State := as.foldl (fun s a => s.enteredAs c a) s
def State.enteredAll (s : State) (as : List Word) : State := as.foldl State.entered s

/-- First address of the local window (R83). -/
def localBase : Nat := 0xFFFFFFF000000000

/-- The address from which a fetch ends the hart's part of its group (R321). -/
def exitPc : Word := 0xFFFFFFE000000000

/-- Does a byte of the local map exist at this offset (R205)? -/
def localValid (off : Nat) : Bool := off < 0x10000 || (0x200000 ≤ off && off < 0x400000)

/-- Where a scalar address leads: the local window, or translation (R83). -/
def State.scalarPlace (s : State) (a : Access) (va : Word) : Except Denial Place :=
  if localBase ≤ va.toNat then
    let off := va.toNat - localBase
    if localValid off then .ok { key := localKey (s.h.id / 4) off, repl := false, atom := true } else .error .page
  else s.translate a va

/-- What a load, or another access that reads, meets once it is translated: the place, or an abort completion (R296). -/
def State.readable (s : State) (p : Place) (n : Nat) : Except Denial Place := if s.aborts p.key n then .error .abort else .ok p

/-- What the translation of a scalar address leaves in the TLBs; the local window is not translated. -/
def State.enteredScalar (s : State) (a : Word) : State := if localBase ≤ a.toNat then s else s.entered a

/-! ### Accesses of a Hearth (R335), queue descriptors (Table 22.3) and ring slots (R313) -/

/-- Translate a supervisor data access of die `die`'s Hearth in context `c`; a Hearth keeps no TLB (R245). -/
def State.hearthPlace (s : State) (die c : Nat) (a : Access) (va : Word) : Except Denial Place :=
  match s.leafOf c va with
  | .error d => .error d
  | .ok (e, level) =>
    let p := placeOf e (2 ^ levelShift level) va die
    if !permitted e a true then .error .perm
    else if s.dev.lost.getLsbD (dieOfKey p.key) then .error .abort
    else .ok p

/-- The places of `n` bytes, or how the first that is denied is denied and its address. -/
def State.hearthPlaces (s : State) (die c : Nat) (a : Access) (va : Word) : Nat → Except (Denial × Word) (List Place)
  | 0 => .ok []
  | n + 1 => match s.hearthPlace die c a va with
    | .error d => .error (d, va)
    | .ok p => match s.hearthPlaces die c a (va + 1) n with
      | .error d => .error d
      | .ok ps => .ok (p :: ps)

/-- One address in each 64 KiB page that `n` bytes from `va` touch (R240). -/
def pagesOf (va : Word) (n : Nat) : List Word :=
  (upTo (ceilDiv (va.toNat % 65536 + n) 65536)).map (fun i => if i = 0 then va else BitVec.ofNat 64 (va.toNat / 65536 * 65536 + 65536 * i))

/-- How the first page of a range that does not translate with the permission is denied, with an address in it (R335). -/
def State.hearthFault (s : State) (die c : Nat) (a : Access) (va : Word) (n : Nat) : Option (Denial × Word) :=
  (pagesOf va n).findSome? (fun p => match s.hearthPlace die c a p with | .ok _ => none | .error d => some (d, p))

/-- Does every page of a range translate with the permission (R335)? -/
def State.hearthOk (s : State) (die c : Nat) (a : Access) (va : Word) (n : Nat) : Bool := (s.hearthFault die c a va n).isNone

/-- Read `n` bytes, little-endian; an uncorrectable error ends in an abort completion (R296). -/
def State.hearthRead (s : State) (die c : Nat) (va : Word) (n : Nat) : Except (Denial × Word) Nat :=
  match s.hearthPlaces die c .load va n with
  | .error d => .error d
  | .ok ps => match ps.findIdx? (fun p => s.aborts p.key 1) with
    | some i => .error (.abort, va + BitVec.ofNat 64 i)
    | none => .ok (packList 8 (ps.map (fun p => (s.mem.read p.key).toNat)))

/-- Does a queue's descriptor hold an uncorrectable error (R296)? -/
def State.descAborts (s : State) (die q : Nat) : Bool := s.poisoned (windowKey die (0x30000 + 64 * q)) 64

/-- Dword `i` of a queue's descriptor. -/
def State.desc (s : State) (die q i : Nat) : Word := s.mem.dword (windowKey die (0x30000 + 64 * q + 8 * i))

def State.descBase (s : State) (die q : Nat) : Word := s.desc die q 0
def State.descLog2n (s : State) (die q : Nat) : Nat := field (s.desc die q 1) 0 5
def State.descPrio (s : State) (die q : Nat) : Nat := field (s.desc die q 1) 5 3
def State.descEn (s : State) (die q : Nat) : Bool := bitAt (s.desc die q 1).toNat 8
def State.descSupq (s : State) (die q : Nat) : Bool := bitAt (s.desc die q 1).toNat 9
def State.descCmd (s : State) (die q : Nat) : Nat := field (s.desc die q 1) 12 2
def State.descCtxid (s : State) (die q : Nat) : Nat := field (s.desc die q 1) 16 16
def State.descStatus (s : State) (die q : Nat) : Word := s.desc die q 2
def State.descRead (s : State) (die q : Nat) : Nat := field (s.desc die q 3) 0 32

/-- The slot of the packet of index `i`, and its address (R313). -/
def State.slotFor (s : State) (die q i : Nat) : Nat := i % 2 ^ s.descLog2n die q
def State.slotAddress (s : State) (die q i : Nat) : Word := s.descBase die q + BitVec.ofNat 64 (64 * s.slotFor die q i)

/-- The slot that READ names, its address and that of its record (R313, Table 22.7). -/
def State.slotIndex (s : State) (die q : Nat) : Nat := s.slotFor die q (s.descRead die q)
def State.slotAt (s : State) (die q : Nat) : Word := s.slotAddress die q (s.descRead die q)
def State.recordAt (s : State) (die q slot : Nat) : Word := s.descStatus die q + BitVec.ofNat 64 (8 * slot)

/-- What the Hearth keeps of a queue that is not stopped. -/
def State.queue (s : State) (die q : Nat) : Option QueueRun := s.dev.queues.find? (fun r => r.die == die && r.queue == q)

/-- STATE of a queue, as its Hearth keeps it: it stands whatever another agent stores into the field (log 18). -/
def State.queueState (s : State) (die q : Nat) : Nat := match s.queue die q with | some r => r.state | none => 0

/-- Does the read of a slot meet an uncorrectable error: in its header, or, where that says that a packet stands there, in the rest (R296)? -/
def State.slotAborts (s : State) (die c : Nat) (a : Word) : Option (Denial × Word) :=
  let denied := fun (n : Nat) => match s.hearthRead die c a n with | .error d => some d | .ok _ => none
  if s.dev.poison.isEmpty then none
  else match s.hearthRead die c a 8 with
    | .error d => some d
    | .ok v => if v % 2 = 1 then denied 64 else none

/-- How the slot of index `i`, or its record, fails its check, and at which address (R314, R335); a LOG2N that Table 22.3 does not allow fails
it at the slot, and an uncorrectable error in the slot fails it too (DESIGN CHOICE, log 18: the spec gives the Hearth no outcome). -/
def State.slotFaultAt (s : State) (die q i : Nat) : Option (Denial × Word) :=
  let c := s.descCtxid die q
  let a := s.slotAddress die q i
  if s.descLog2n die q < 1 ∨ 16 < s.descLog2n die q then some (.page, a)
  else (((s.hearthFault die c .load a 64).orElse (fun _ => s.hearthFault die c .store a 64)).orElse
    (fun _ => s.hearthFault die c .store (s.recordAt die q (s.slotFor die q i)) 8)).orElse (fun _ => s.slotAborts die c a)

/-- The header of the slot of index `i`, which has passed its check. -/
def State.headerAt (s : State) (die q i : Nat) : Word :=
  match s.hearthRead die (s.descCtxid die q) (s.slotAddress die q i) 8 with
  | .ok v => BitVec.ofNat 64 v
  | .error _ => 0

/-- How the slot at READ fails, whether it and its record pass, and its header. -/
def State.slotFault (s : State) (die q : Nat) : Option (Denial × Word) := s.slotFaultAt die q (s.descRead die q)
def State.slotOk (s : State) (die q : Nat) : Bool := (s.slotFault die q).isNone
def State.slotHeader (s : State) (die q : Nat) : Word := s.headerAt die q (s.descRead die q)

/-- Number of packets from index `i` on that stand posted, up to `n` of them. -/
def State.postedFrom (s : State) (die q i : Nat) : Nat → Nat
  | 0 => 0
  | n + 1 =>
    if (s.slotFaultAt die q i).isNone && bitAt (s.headerAt die q i).toNat 0 then s.postedFrom die q ((i + 1) % 2 ^ 32) n + 1 else 0

/-- The index before which a scan of a queue finds its packets posted (R314); beyond every index, where the descriptor holds an error and none is
found (R296; log 69). -/
def State.postedTo (s : State) (die q : Nat) : Nat :=
  if s.descAborts die q then 2 ^ 32
  else (s.descRead die q + s.postedFrom die q (s.descRead die q) (2 ^ s.descLog2n die q)) % 2 ^ 32

/-- EN and CMD of a value written to dword 1 of a descriptor (Table 22.3). -/
def wroteEn (v : Word) : Bool := bitAt v.toNat 8
def wroteCmd (v : Word) : Nat := field v 12 2

/-- Have the Hearths accepted their firmware, so that they act (R328)? -/
def State.hearthsUp (s : State) : Bool := 2 ≤ s.dev.bringUp

/-- Does a write to a notify line start a scan: does the queue run, counting a write that starts it and has been performed
(R314, R334)? -/
def State.heedsNotify (s : State) (die q : Nat) : Bool :=
  (match s.queue die q with | some r => r.state == 1 && !r.stop | none => false)
    || s.dev.requests.any (fun r => match r with | .descriptor d n v => d == die && n == q && wroteEn v | _ => false)

/-! ### Writes: the strip store buffer, accepted writes, performed writes -/

/-- Dword 1 of the descriptor of a queue (Table 22.3). -/
def Memory.descriptorWord (m : Memory) (die q : Nat) : Word := m.dword (windowKey die (0x30000 + 64 * q + 8))

/-- What a Hearth has to act on after a write of the byte at key `k`, `s` being the machine after it: a scan of a queue that runs, for
what stands posted at that moment (R314), or the write (R311, R334, R329, R302). -/
def State.hearthRequest (s : State) (k : Nat) : Option HearthRequest :=
  if isDevKey k ∧ windowBase ≤ k % 2 ^ 37 then
    let d := dieOfKey k
    let w := k % 2 ^ 37 - windowBase
    if 0x40000 ≤ w ∧ w < 0x41000 then
      (if s.heedsNotify d ((w - 0x40000) / 64) then some (.notify d ((w - 0x40000) / 64) (s.postedTo d ((w - 0x40000) / 64))) else none)
    else if 0x30000 ≤ w ∧ w < 0x31000 ∧ w % 64 / 8 = 1 then
      some (.descriptor d ((w - 0x30000) / 64) (s.mem.descriptorWord d ((w - 0x30000) / 64)))
    else if 0x10010 ≤ w ∧ w < 0x10018 then some (.shootdown d)
    else if 0x10050 ≤ w ∧ w < 0x10058 then some (.attestation d)
    else if 0x10080 ≤ w ∧ w < 0x10088 then some (.snapshot d)
    else if d = 0 ∧ 0x20000 ≤ w ∧ w < 0x28000 ∧ w % 32 / 8 = 2 then some (.contexts ((w - 0x20000) / 32))
    else none
  else none

/-- Die of the Hearth that acts on a request. -/
def HearthRequest.die : HearthRequest → Nat
  | .notify d _ _ => d
  | .descriptor d _ _ => d
  | .shootdown d => d
  | .attestation d => d
  | .snapshot d => d
  | .contexts _ => 0

/-- Does the Hearth act on a write by this agent: any write to a notify line, and otherwise those of other agents (Table 22.1, R334)? -/
def HearthRequest.heeds (r : HearthRequest) (ag : Agent) : Bool :=
  match r with
  | .notify _ _ _ => true
  | _ => ag != .hearth r.die

/-- Add a request. A write to a descriptor is acted on as often as it is made (R334); of the other requests one is enough. -/
def addRequest (rs : List HearthRequest) (r : HearthRequest) : List HearthRequest :=
  match r with
  | .descriptor _ _ _ => rs ++ [r]
  | _ => if r ∈ rs then rs else rs ++ [r]

/-- The requests that one write gives rise to, each once. -/
def State.requestsOf (s : State) (ag : Agent) (cs : List Host.Cell) : List HearthRequest :=
  ((cs.filterMap (fun c => s.hearthRequest c.1)).filter (·.heeds ag)).foldl (fun l r => if r ∈ l then l else l ++ [r]) []

/-- Set the event bit of a hart whose armed line is written by another agent than its scalar agent (R91). -/
def Hart.seeWrite (ag : Agent) (cs : List Host.Cell) (h : Hart) : Hart :=
  match h.monitor with
  | none => h
  | some line => if ag ≠ .scalar h.id ∧ cs.any (fun c => c.1 / 64 == line) then { h with event := true } else h

/-- Perform a write at its home: for every party at one instant (R278). Bytes that it writes hold an error no longer (Table 19.7). -/
def State.perform (s : State) (ag : Agent) (cs : List Host.Cell) : State :=
  let m := s.mem.writes cs
  { s with mem := m, h := s.h.seeWrite ag cs, harts := s.harts.map (Hart.seeWrite ag cs),
           dev := { s.dev with requests := (({ s with mem := m } : State).requestsOf ag cs).foldl addRequest s.dev.requests,
                               poison := s.dev.poison.filter (fun k => !cs.any (fun c => c.1 == k)) } }

/-- Write a doubleword of a Hearth window as its Hearth. -/
def State.hearthWrite (s : State) (die w n v : Nat) : State := s.perform (.hearth die) (cellsOf (windowKey die w) n v)

/-- Number of a kind of event in an error-log entry (log 6). -/
def LogKind.code : LogKind → Nat
  | .abort => 0 | .mismatch => 1 | .migration => 2 | .slot => 3 | .record => 4 | .signal => 5 | .copy => 6 | .image => 7
  | .temperature => 8 | .report => 9

/-- Write an entry of a die's error log at ERRIDX: TIME, kind, location, requester, CTXID (R296, Tables 22.1, 22.2). Its layout in the
window is free (log 6); where ERRIDX itself holds an uncorrectable error, the log begins again at entry 0 (DESIGN CHOICE, log 69). -/
def State.logError (s : State) (die : Nat) (kind : LogKind) (location requester ctxid : Nat) : State :=
  let i := if s.poisoned (windowKey die 0x10) 1 then 0 else (s.mem.read (windowKey die 0x10)).toNat % 64
  let e : LogEvent := { die := die, time := s.dev.time, kind := kind, location := location, requester := requester, ctxid := ctxid }
  let s1 := (upTo 8).foldl (fun s j => s.hearthWrite die (0x1000 + 64 * i + 8 * j) 8
    (Config.errorLogWord e.time kind.code location requester ctxid j).toNat) s
  (s1.hearthWrite die 0x10 1 ((i + 1) % 64)).mapDev (fun d => { d with errors := d.errors ++ [e] })

/-- A Hearth meets an uncorrectable error in its own window at `w`: the error log says so (R296; log 69). -/
def State.logWindow (s : State) (die w : Nat) : State := s.logError die .abort (windowKey die w) die 0

/-- Write a byte of a Hearth's window as its Hearth, changed by `f`. Where it holds an uncorrectable error, its other bits become 0 (DESIGN CHOICE,
log 69). -/
def State.hearthChange (s : State) (die w : Nat) (f : Nat → Nat) : State :=
  if s.poisoned (windowKey die w) 1 then (s.logWindow die w).hearthWrite die w 1 (f 0)
  else s.hearthWrite die w 1 (f (s.mem.read (windowKey die w)).toNat)

/-- Log an event of the hart in hand (R296). -/
def State.logHart (s : State) (kind : LogKind) (location : Nat) : State :=
  s.logError (dieOfHart s.h.id) kind location s.h.id s.h.ctxid.toNat

/-- Die from which an agent's requests come; the outside counts as endpoint 6 (log 45). -/
def Agent.die : Agent → Nat
  | .scalar h => dieOfHart h
  | .vector h => dieOfHart h
  | .hearth d => d
  | .outside => 6

/-- The hart of an agent. -/
def Agent.hart : Agent → Option Nat
  | .scalar h => some h
  | .vector h => some h
  | _ => none

/-- The die of a key; a local memory lies on the die of its core. -/
def targetDie (k : Nat) : Nat := if isDevKey k then dieOfKey k else (k - 2 ^ 40) / 2 ^ 22 / 512

/-- The writes that a fence of an agent's hart has put before its next ones (R271). -/
def State.behindOf (s : State) (ag : Agent) : List Nat := match ag.hart with | some id => (s.hartOf id).behind | none => []

/-- Accept one write on its way to the home of its cells; one that leaves its die takes the next sequence number of its
endpoint pair and the current route version (R323). The source's retry buffer takes every request, so that none stalls (DESIGN CHOICE, log 45: R323
gives no size). -/
def State.acceptAt (s : State) (ag : Agent) (st : Store) (shown : Bool) (group : Nat) (cs : List Host.Cell) : State :=
  let src := ag.die
  let dst := match cs with | (k, _) :: _ => targetDie k | [] => src
  let ch := s.dev.channel src dst
  let w : Write := { id := s.dev.nextWrite, group := group, agent := ag, ctxid := st.ctxid, cells := cs, mask := st.mask, repl := st.repl, atom := st.atom,
                     shown := shown, waits := s.behindOf ag, source := src, target := dst, seq := if src = dst then 0 else ch.next,
                     version := s.dev.rver, done := false }
  s.mapDev (fun d =>
    let d := { d with writes := d.writes ++ [w], nextWrite := d.nextWrite + 1 }
    if src = dst then d else d.setChannel { ch with next := ch.next + 1 })

/-- The copies of a store's cells: six for a REPL page, one on each die (R244, R279). -/
def Store.copies (st : Store) : List (List Host.Cell) :=
  if st.repl then (upTo 6).map (fun d => st.cells.map (fun c => (devKey d (c.1 % 2 ^ 37), c.2))) else [st.cells]

/-- Accept a store; `shown` when it leaves the strip store buffer. -/
def State.accept (s : State) (ag : Agent) (st : Store) (shown : Bool) : State :=
  st.copies.foldl (fun t cs => t.acceptAt ag st shown s.dev.nextWrite cs) s

/-- The agent of a store of hart `id`. -/
def Store.agent (id : Nat) (st : Store) : Agent := if st.vector then .vector id else .scalar id

/-- Accept the stores of a closed strip, in program order (R157). -/
def State.flushClosed (s : State) : State :=
  let s' := s.h.closed.foldl (fun s st => s.accept (st.agent s.h.id) st true) s
  s'.mapH (fun h => { h with closed := [] })

/-- Commit every buffered store of the strip store buffer (R157, R159). -/
def State.commitSsb (s : State) : State :=
  let s := s.flushClosed
  let s' := s.h.ssb.foldl (fun s st => s.accept (st.agent s.h.id) st true) s
  s'.mapH (fun h => { h with ssb := [] })

/-- Seal an open strip (R159). -/
def State.seal (s : State) : State :=
  if s.h.loops.opn ∧ ¬ s.h.loops.sealed then
    s.commitSsb.mapH (fun h => { h with loops := { h.loops with sealed := true } })
  else s

/-- Close a strip: its buffered stores leave the buffer and are committed (SSB_COMMIT) once its convoys have retired
(R156, R157). -/
def State.closeStrip (s : State) : State :=
  s.mapH (fun h => { h with closed := h.closed ++ h.ssb, ssb := [], ckpt := none,
                            loops := { h.loops with opn := false, sealed := false, replay := false } })

/-- The 32-byte chunks that stores touch, each once (R158). -/
def chunksOf (ss : List Store) : List Nat :=
  (ss.flatMap (fun st => st.cells.map (fun c => c.1 / 32))).foldl (fun l k => if k ∈ l then l else k :: l) []

/-- SSBUSE.ENTRIES (R158). -/
def Hart.ssbEntries (h : Hart) : Nat := (chunksOf h.ssb).length

/-- Is an unsealed strip open? -/
def Hart.unsealed (h : Hart) : Bool := h.loops.opn && !h.loops.sealed

/-- A plain store of the hart: to the SSB inside an open unsealed strip, sealing it when no entry is free (R158, R159);
otherwise accepted for memory. -/
def State.store (s : State) (st : Store) : State :=
  if s.h.loops.opn ∧ ¬ s.h.loops.sealed then
    if (chunksOf (s.h.ssb ++ [st])).length ≤ 1024 then s.mapH (fun h => { h with ssb := h.ssb ++ [st] })
    else s.seal.accept (st.agent s.h.id) st false
  else s.flushClosed.accept (st.agent s.h.id) st false

/-- Is a write one that the agent made, or one out of the strip store buffer of its hart, where it could read it (R158)? -/
def Write.ownOf (ag : Agent) (w : Write) : Bool :=
  w.agent == ag || (w.shown && w.agent.hart.isSome && w.agent.hart == ag.hart)

/-- May a die-to-die port show a write to the readers of the die that it leaves before it is performed (R244, R278)? -/
def Write.shows (forwarding : Bool) (w : Write) : Bool :=
  forwarding && !w.atom && w.source != w.target && isDevKey ((w.cells.headD (0, 0)).1)

/-- Does a read by the agent find an accepted write: one of its own, or one that its die's port shows, or that stands before the read in
the fabric (R244, R269, R278, R323)? -/
def seenBy (ag : Agent) (w : Write) : Bool :=
  !w.done && (w.ownOf ag || (w.source == ag.die && w.agent != .outside && w.source != w.target))

/-- The byte that the last write of a list gives a key. -/
def lastCell (k : Nat) (cs : List Host.Cell) : Option Byte := (cs.reverse.find? (fun c => c.1 == k)).map (·.2)

/-- A byte with the bits that a mask names replaced (R216). -/
def blend (mask old new : Byte) : Byte := (old &&& ~~~ mask) ||| (new &&& mask)

/-- The byte at key `k` after cells are written onto `b` under a mask. -/
def overlay (k : Nat) (b mask : Byte) (cs : List Host.Cell) : Byte :=
  match lastCell k cs with
  | some v => blend mask b v
  | none => b

/-- The byte at a key as an agent reads it, the strip store buffer aside (R269). -/
def State.readAs (s : State) (ag : Agent) (k : Nat) : Byte :=
  (s.dev.writes.filter (seenBy ag)).foldl (fun b w => overlay k b w.mask w.cells) (s.mem.read k)

/-- The byte at a key as an agent of the hart in hand reads it: buffered bytes of its strips first (R158). -/
def State.readByte (s : State) (vector : Bool) (k : Nat) : Byte :=
  (s.h.closed ++ s.h.ssb).foldl (fun b st => overlay k b st.mask st.cells)
    (s.readAs (if vector then .vector s.h.id else .scalar s.h.id) k)

/-- `n` bytes, little-endian, as an agent of the hart in hand reads them. -/
def State.readN (s : State) (vector : Bool) (k n : Nat) : Nat := readLE (s.readByte vector) k n

/-- Does a read of the hart's agent find the whole byte in a store that has not left the hart (R158)? -/
def State.buffered (s : State) (k : Nat) : Bool := (s.h.closed ++ s.h.ssb).any (fun st => st.mask == 0xFF && st.cells.any (·.1 == k))

/-- Does it find it there, or in a write of its own, which is performed before the read (R269)? -/
def State.supplied (s : State) (ag : Agent) (k : Nat) : Bool :=
  s.buffered k || s.dev.writes.any (fun w => !w.done && w.ownOf ag && w.mask == 0xFF && w.cells.any (·.1 == k))

/-- Does a read of `n` bytes at key `k` by an agent of the hart in hand end in an abort completion, for a byte that it takes from memory (R158,
R296, R324)? -/
def State.readAborts (s : State) (vector : Bool) (k n : Nat) : Bool :=
  s.aborts k n && (upTo n).any (fun i => !s.buffered (k + i)
    && ((isDevKey (k + i) && s.dev.lost.getLsbD (dieOfKey (k + i)))
      || (s.poisoned (k + i) 1 && !s.supplied (if vector then .vector s.h.id else .scalar s.h.id) (k + i))))

/-! ### The order in which accepted writes are performed (R269, R271, R278, R279, R323) -/

/-- Does the write share a byte with another? -/
def Write.overlaps (a b : Write) : Bool := a.cells.any (fun c => b.cells.any (fun e => e.1 == c.1))

/-- Does the write touch one of `n` bytes from key `k`? -/
def Write.touches (w : Write) (k n : Nat) : Bool := w.cells.any (fun c => k ≤ c.1 && c.1 < k + n)

/-- Must a write accepted earlier, `b`, be performed before `w`? Writes of one scalar agent are in order, the copies of one store
aside; of one vector agent where they overlap; those out of the strip store buffer of a hart (R157); overlapping ones that a reader of both
agents of a hart or of the die may have met; overlapping ones on REPL pages, in one order at every copy; those of one endpoint pair; those that a fence put
before it. -/
def Write.precedes (forwarding : Bool) (b w : Write) : Bool :=
  !b.done &&
  ((b.agent == w.agent && b.group != w.group && (w.overlaps b || (match w.agent with | .vector _ => false | _ => true)))
    || ((b.shown || w.shown) && b.agent.hart.isSome && b.agent.hart == w.agent.hart && b.group != w.group
        && ((b.shown && w.shown) || w.overlaps b))
    || (forwarding && w.overlaps b)
    || (b.repl && w.repl && w.overlaps b)
    || (w.source != w.target && b.source == w.source && b.target == w.target)
    || w.waits.contains b.id)

/-- May the write `w` be performed before those accepted earlier, `before`? -/
def Write.mayPass (forwarding : Bool) (before : List Write) (w : Write) : Bool := before.all (fun b => !b.precedes forwarding w)

/-- A write reaches its home: its number at the destination passes, and it is performed there. One to the memory of a lost die ends in
an abort completion, which its program does not see (R296, R324). One of some bits of a byte leaves an error that the byte holds (R216,
Table 19.7). -/
def State.land (s : State) (w : Write) : State :=
  let s := if w.source = w.target then s
    else s.mapDev (fun d => d.setChannel { d.channel w.source w.target with expect := w.seq + 1 })
  if s.dev.lost.getLsbD w.target then
    s.logError w.source .abort ((w.cells.headD (0, 0)).1) ((w.agent.hart).getD w.source) w.ctxid.toNat
  else
    let t := s.perform w.agent (w.cells.map (fun c => (c.1, blend w.mask (s.mem.read c.1) c.2)))
    if w.mask = 0xFF then t else t.mapDev (fun d => { d with poison := s.dev.poison })

/-- Perform the accepted write at position `i` at its home; its acknowledgement frees it at once (R248, R323). -/
def State.performAt (s : State) (i : Nat) : State :=
  match s.dev.writes[i]? with
  | none => s
  | some w =>
    let s := s.mapDev (fun d => { d with writes := dropAt i d.writes })
    if w.done then s else s.land w

/-- The writes that `p` picks, with those that have to be performed before them, in order. -/
def closure (forwarding : Bool) (p : Write → Bool) : List Write → List Write
  | [] => []
  | w :: ws =>
    let k := closure forwarding p ws
    if !w.done && (p w || k.any (w.precedes forwarding)) then w :: k else k

/-- Perform the accepted writes that `p` picks, with those that stand before them. -/
def State.drainWhere (s : State) (p : Write → Bool) : State :=
  match closure s.forwarding p s.dev.writes with
  | [] => s
  | k => k.foldl State.land (s.mapDev (fun d => { d with writes := d.writes.filter (fun w => !k.any (fun x => x.id == w.id)) }))

/-- Perform every accepted write. -/
def State.drain (s : State) : State := s.drainWhere (fun _ => true)

/-- The writes of the hart's scalar agent, of its vector agent; each with those that it could read in the strip store buffer. -/
def ownScalar (id : Nat) (w : Write) : Bool := w.ownOf (.scalar id)
def ownVector (id : Nat) (w : Write) : Bool := w.ownOf (.vector id)

/-- May a die's port have shown a write to a read on the die before it is performed (R271)? -/
def Write.met (forwarding : Bool) (die : Nat) (w : Write) : Bool := w.shows forwarding && w.source == die

/-- Is a write one that the hart in hand may have read although it is not performed everywhere: a forwarded one of its die, or a copy of a
REPL write whose copy on the hart's die has been performed (R271, R278, R279)? -/
def State.mayHaveRead (s : State) (w : Write) : Bool :=
  w.met s.forwarding (dieOfHart s.h.id)
    || (w.repl && !s.dev.writes.any (fun b => b.group == w.group && b.target == dieOfHart s.h.id && !b.done))

/-- Is every party of a scope one that die-to-die forwarding serves: harts of the die, and none of the Hearth and the Cellars (Table 17.1)? -/
def narrowScope : Scope → Bool
  | .hart => true
  | .core => true
  | .clu => true
  | _ => false

/-- Has every party of a scope that the hart in hand is of a write before it is performed at its home (R270, R278)? -/
def State.servedAt (s : State) (scope : Scope) (w : Write) : Bool := narrowScope scope && w.met s.forwarding (dieOfHart s.h.id)

/-- Is a write one of the hart's own, of the agents named? -/
def Hart.made (h : Hart) (scalar vector : Bool) (w : Write) : Bool :=
  (scalar && ownScalar h.id w) || (vector && ownVector h.id w)

/-- Perform, before an ordering point of the hart in hand at a scope, the writes of its scalar agent, of its vector agent, those of others
that it may have read, and what an earlier fence has put before it (R271: cumulative); not what every party of the scope has
already (log 8). -/
def State.orderAt (s : State) (scope : Scope) (scalar vector : Bool) : State :=
  let t := s.flushClosed
  t.drainWhere (fun w => ((t.h.made scalar vector w || t.mayHaveRead w) && !t.servedAt scope w) || t.h.behind.contains w.id)

/-- The same for every party of the device and outside it. -/
def State.order (s : State) (scalar vector : Bool) : State := s.orderAt .sys scalar vector

/-- Does a port of the reading agent's die return all `n` bytes at key `k` from stores still on their way (R244)? -/
def State.fromPort (s : State) (ag : Agent) (k n : Nat) : Bool :=
  s.forwarding && (upTo n).all (fun i => s.dev.writes.any (fun w =>
    w.shows s.forwarding && seenBy ag w && w.source == ag.die && w.touches (k + i) 1))

/-- What a read of `n` bytes at key `k` by an agent leaves. Where it crosses to another die it has followed the requests before it; its own
writes to the bytes have been performed (R269, R278, R323). One that a port serves leaves nothing (R244). -/
def State.afterRead (s : State) (ag : Agent) (k n : Nat) : State :=
  let src := ag.die
  let dst := targetDie k
  if s.fromPort ag k n then s
  else (s.drainWhere (fun w => (w.ownOf ag && w.touches k n) || (src != dst && w.source == src && w.target == dst))).request src dst

/-- What stands before an access that an agent performs at its home, to `n` bytes at key `k`: its own writes to them, those that it may
have read there, every write to a replicated byte of them, what a fence has put before it, and the requests before
it (R269, R271, R279, R323). -/
def State.beforeHome (s : State) (ag : Agent) (k n : Nat) : State :=
  let src := ag.die
  let dst := targetDie k
  (s.drainWhere (fun w => ((w.ownOf ag || w.met s.forwarding src || w.repl) && w.touches k n)
    || (s.behindOf ag).contains w.id || (src != dst && w.source == src && w.target == dst))).request src dst

/-- Each element of a list once. -/
def distinct (l : List Nat) : List Nat := l.foldl (fun m a => if m.contains a then m else m ++ [a]) []

/-- What stands before a write of cells that an agent performs at their homes. -/
def State.beforeCells (s : State) (ag : Agent) (cs : List Host.Cell) : State :=
  let src := ag.die
  let dsts := distinct (cs.map (fun c => targetDie c.1))
  let t := s.drainWhere (fun w => ((w.ownOf ag || w.met s.forwarding src || w.repl) && w.cells.any (fun c => cs.any (fun e => e.1 == c.1)))
    || (src != w.target && w.source == src && dsts.contains w.target))
  dsts.foldl (fun s d => s.request src d) t

/-- Write `n` bytes at key `k` at once at their home. -/
def State.strike (s : State) (ag : Agent) (k n v : Nat) : State := (s.beforeHome ag k n).perform ag (cellsOf k n v)

/-- What stands before a table step, or an access of a stream: the hart's own vector writes, and the requests of its die to other dies
(R223, R260, R269, R323). -/
def State.atHome (s : State) : State :=
  s.drainWhere (fun w => ownVector s.h.id w || (w.source == dieOfHart s.h.id && w.source != w.target))

/-- Order before an element operation of the vector agent: seal the strip (R159), perform the agent's own earlier writes. -/
def State.beforeAtomic (s : State) : State := s.seal.flushClosed.drainWhere (ownVector s.h.id)

/-- A write that an instruction of the vector agent makes at its retirement, noted: its later elements and steps read it, and it is performed
when the convoy commits (R27, R260). After `beforeAtomic`, `closed` holds nothing else. -/
def State.note (s : State) (k n v : Nat) : State :=
  let st : Store := { vector := true, ctxid := s.h.ctxid, va := 0, cells := cellsOf k n v, mask := 0xFF, repl := false, atom := true }
  { s with mem := s.mem.writes st.cells, h := { s.h with closed := s.h.closed ++ [st] } }

/-- Perform a noted write at its home. -/
def State.strikeStore (s : State) (st : Store) : State :=
  (s.beforeHome (.vector s.h.id) ((st.cells.headD (0, 0)).1) st.cells.length).perform (.vector s.h.id) st.cells

/-! ### Ending levels, back edges and branches (R149 to R156) -/

/-- end_level(n) of the innermost level (R156). -/
def State.endLevel (s : State) (n : Nat) : State :=
  let l := s.h.loops.level n
  let s := if l.strip then s.closeStrip else s
  s.mapH (fun h => { h with loops := { h.loops.setLevel n freeLevel with
    lact := h.loops.lact &&& ~~~ (BitVec.ofNat 4 (2 ^ n)), rrb := if l.rot then 0 else h.loops.rrb } })

/-- The stage predicate after a back edge (R150). -/
def nextSp (sp : BitVec 8) (stages : Nat) (more : Bool) : BitVec 8 :=
  BitVec.ofNat 8 ((2 * sp.toNat + more.toNat) % 2 ^ stages)

/-- The back edge of level `n`, and the fall-through of the levels around it that end at the same word (R149, R150). -/
def State.backEdge (s : State) : Nat → State
  | 0 => s
  | n + 1 =>
    let l := s.h.loops.level n
    let cnt := if l.strip then l.lcnt else if l.lcnt = 0 then 0 else l.lcnt - 1
    let more := if !l.strip then decide (cnt ≠ 0)
      else if l.farm then decide (0 < l.svl)
      else decide (0 < (s.h.rx l.xreg).toInt)
    let sp := nextSp l.sp l.stages more
    let rrb := if l.rot then s.h.loops.rrb + 15 else s.h.loops.rrb
    let s := s.mapH (fun h => { h with loops := { h.loops.setLevel n { l with lcnt := cnt, sp := sp } with rrb := rrb } })
    if sp = 0 then
      let s := (s.endLevel n).mapH (fun h => { h with pc := l.lend })
      match s.h.loops.inner with
      | some (m, o) => if m + 1 = n ∧ o.lend = l.lend then State.backEdge s n else s
      | none => s
    else s.mapH (fun h => { h with pc := l.lbeg })

/-- Is an address in a level's body? -/
def Level.inBody (l : Level) (a : Word) : Bool := l.lbeg.toNat ≤ a.toNat && a.toNat < l.lend.toNat

/-- Go on at `next`, the sequential successor of what stood at the PC (R149). -/
def State.advanceTo (s : State) (next : Word) : State :=
  match s.h.loops.inner with
  | some (n, l) => if l.inBody s.h.pc ∧ next = l.lend then s.backEdge (n + 1) else s.mapH (fun h => { h with pc := next })
  | none => s.mapH (fun h => { h with pc := next })

/-- Go on at the next word. -/
def State.advance (s : State) : State := s.advanceTo (s.h.pc + 4)

/-- May a branch or jump that is not a call go to `t` (R153)? -/
def Loops.targetOk (l : Loops) (t : Word) : Bool :=
  (match l.inner with | some (_, i) => t == i.lend | none => false) || l.here.all (fun p => p.2.inBody t)

/-- Take a branch or jump, not a call, whose target is allowed (R149). -/
def State.jumpTo (s : State) (t : Word) : State :=
  match s.h.loops.inner with
  | some (n, l) => if t = l.lend then s.backEdge (n + 1) else s.mapH (fun h => { h with pc := t })
  | none => s.mapH (fun h => { h with pc := t })

/-- Fall through at LEND of the level around, when an arrival at `t` without a branch ends its body (R147, R156). -/
def State.arriveAt (s : State) (t : Word) : State := s.jumpTo t

/-! ### Traps (R286 to R290) -/

/-- ECAUSE.CODE (Table 19.1). -/
def Cause.code : Cause → BitVec 8
  | .ill => 0x01 | .enc => 0x02 | .align => 0x03 | .page => 0x04 | .perm => 0x05 | .guard => 0x06 | .shape => 0x07
  | .lnest => 0x08 | .lesc => 0x09 | .first => 0x0A | .data => 0x0B | .lane => 0x0C | .qerr => 0x0D | .hash => 0x0E
  | .brk => 0x0F | .dbg => 0x10 | .trap => 0x11 | .preempt => 0x12 | .timer => 0x13 | .strip => 0x14

/-- Is the cause asynchronous? -/
def Cause.async : Cause → Bool
  | .preempt => true
  | .timer => true
  | _ => false

/-- ECAUSE as a trap leaves it (Table 19.2). -/
def TrapInfo.ecause (t : TrapInfo) : BitVec 12 :=
  BitVec.ofNat 12 (t.cause.code.toNat + 256 * t.cause.async.toNat + 512 * (t.bp % 8))

/-- A refusal at the PC with EVAL `v` and nothing else. -/
def State.refusal (s : State) (c : Cause) (v : Word) : TrapInfo :=
  { cause := c, bp := 0, epc := s.h.pc, eval := v, eelem := 0, elane := 0 }

/-- The entry itself (R288), after the strip has sealed or rewound. -/
def State.enter (s : State) (t : TrapInfo) : State :=
  s.mapH (fun h => { h with
    trap := { h.trap with ecause := t.ecause, epc := t.epc, eval := t.eval, eelem := BitVec.ofNat 13 t.eelem,
                          elane := BitVec.ofNat 5 t.elane, psup := h.trap.sup, pte := h.trap.te, sup := true, te := false,
                          overrun := h.trap.overrun || h.trap.live, live := true },
    shadow := h.loops, loops := clearLoops, monitor := none, event := false, pc := h.trap.tvec, ckpt := none, taking := none,
    wait := .none })

/-- Does a hart belong to a group that has not retired (R52, R321)? One that has ended its part still does. -/
def Hart.occupied (h : Hart) : Bool := h.active || h.task != 0

/-- Is the hart one of a task whose group has not retired? -/
def Hart.ofTask (h : Hart) (task : Nat) : Bool := h.occupied && h.task == task

/-- A hart stops at time `t` as at pre-emption (R290, R292, R322): issued convoys have 2,000 counts left; work that has not issued,
what the pipeline holds, the strip store buffer, streams, captured updates and migrations end with nothing more observed. -/
def Hart.stop (t : Nat) (h : Hart) : Hart :=
  let cs := h.convoys.takeWhile (·.issued)
  { h with stopped := true, convoys := cs, squeue := [], ssb := [], closed := [], streams := List.replicate 16 none,
           mq := [], migr := [], heldFail := [], wait := .none, preempt := false, timer := false,
           taking := if cs.isEmpty then none else some t, holding := false, ahead := [], front := none, claims := [] }

/-- The die whose controller finds the error of an access to `va` in context `c` that ends in an abort completion: of the context's entry, of
the page-table entry or of the byte; the die of the access where that die is lost and cannot log (R296, R324; log 61). -/
def State.finder (s : State) (c : BitVec 16) (own : Nat) (va : Word) : Nat :=
  let d := if s.contextAborts c.toNat then 0
    else if s.contextOk c.toNat then
      s.walkDie va.toNat own 4 0 (field (s.contextDword c.toNat 0) 37 3) (field (s.contextDword c.toNat 0) 0 37)
    else own
  if s.dev.lost.getLsbD d then own else d

/-- The counter at `va` that a hart waits on in a BAR, as each of its accesses translates it anew (R243, R247, R276, R296; log 70). -/
def State.counterAt (s : State) (h : Hart) (va : Word) : Except Denial Nat :=
  match s.translateAs h.ctxid h.trap.sup .atomic va with
  | .error d => .error d
  | .ok p => if !p.atom then .error .perm else if s.aborts p.key 8 then .error .abort else .ok p.key

/-- The arrival at a counter of generation `g` is withdrawn there, unless the barrier has completed (R277): one more access of the hart's scalar
agent. -/
def State.takeBack (s : State) (h : Hart) (key g : Nat) : State :=
  let t := s.beforeHome (.scalar h.id) key 8
  let c := t.mem.dword key
  if field c 32 32 = g then t.perform (.scalar h.id) (cellsOf key 8 (c.toNat - 2 ^ 16)) else t

/-- The same for a hart that waits in a BAR; where its counter is denied now nothing can be withdrawn (log 70), and an abort completion is
logged. -/
def State.withdraw (s : State) (h : Hart) : State :=
  match h.wait with
  | .bar (some va) g => (match s.counterAt h va with
    | .ok key => s.takeBack h key g
    | .error .abort => s.logError (s.finder h.ctxid (dieOfHart h.id) va) .abort va.toNat h.id h.ctxid.toNat
    | .error _ => s)
  | _ => s

/-- Kill task `task` with a cause and a group (R322): its harts stop, an arrival at a barrier is settled first (R277), and
TASK_QUIESCENCE ends the task. -/
def State.killTask (s : State) (task : Nat) (cause : BitVec 8) (group : BitVec 16) : State :=
  let s := (s.allHarts.filter (·.ofTask task)).foldl State.withdraw s
  let t := s.dev.time
  let s := s.mapHarts (fun h => if h.ofTask task then h.stop t else h)
  s.mapDev (fun d => { d with packets := d.packets.map (fun p =>
    if p.id = task ∧ p.phase = .running then { p with phase := .killing, cause := cause, group := group, waiting := [] } else p) })

/-- A fatal trap (R290): the hart stops, reports the new cause with its PC, EVAL, EELEM and ELANE and the trap CSRs as they stand, and its
group's task is killed. -/
def State.fatal (s : State) (t : TrapInfo) : State :=
  let r : FatalReport := { hart := s.h.id, info := t, trap := s.h.trap }
  let s := (s.mapH (Hart.stop s.dev.time)).mapDev (fun d => { d with fatals := d.fatals ++ [r] })
  s.killTask s.h.task t.cause.code s.h.groupid

/-- Give up an issued convoy (R27, R187): panes its PCLAIM took return to free. -/
def Core.releaseClaims (ps : List Nat) (c : Core) : Core :=
  { c with panes := ps.foldl (fun l p => l.set p freePane) c.panes }

/-- VLCAP (R58). -/
def vlcapOf (grant : BitVec 8) (vt : BitVec 11) : Nat := 1024 * popcount 8 grant.toNat / vtSew vt

/-- The claim that an entry of the pipeline's log has made in memory, if any (R160). -/
def Ahead.claimed (c : BitVec 16) (e : Ahead) : Option KeptClaim :=
  match e.kind with
  | .head _ (some (base, n)) (some d) => some { ctxid := c, desc := d, base := base, count := n }
  | _ => none

/-- The pipeline returns to the place of the hart's oldest unfinished work: what it held is discarded (R96), but the claims that it has made
in memory stay the hart's (R292, R309; log 65). -/
def Hart.dropAhead (h : Hart) : Hart :=
  { h with ahead := [], front := none, claims := h.claims ++ h.ahead.filterMap (Ahead.claimed h.ctxid) }

/-- A scalar store to the number that a claim of the hart has added to: what the hart counts from there begins anew, and the claim is the hart's no
longer (log 65). -/
def Hart.renumber (h : Hart) (c : BitVec 16) (va : Word) : Hart :=
  { h with claims := h.claims.filter (fun k => !(k.ctxid == c && k.desc.toNat ≤ va.toNat && va.toNat < k.desc.toNat + 8)) }

/-- The claim from a descriptor that a discarded strip head has left the hart, if any. -/
def Hart.keptClaim (h : Hart) (d : Word) : Option KeptClaim := h.claims.find? (fun c => c.ctxid == h.ctxid && c.desc == d)

/-- The GRANT that an entry of the pipeline's log is to give the hart, if it is a strip head or another VSETVL. -/
def Ahead.grants (e : Ahead) : Option (BitVec 8) := match e.kind with | .head g _ _ => some g | _ => none

/-- The clusters of a unit: one cluster, or in protected mode a primary cluster with its mirror (R52). -/
def unitClusters (prot : Bool) (u : Nat) : List Nat := if prot then [u, u + 4] else [u]

/-- The clusters that a GRANT makes its hart use, mirrors included (R52, R58). -/
def clustersOf (prot : Bool) (grant : BitVec 8) : List Nat := ((upTo 8).filter (bitAt grant.toNat)).flatMap (unitClusters prot)

/-- The clusters that the hart's GRANT makes it use. -/
def Hart.usedClusters (h : Hart) : List Nat := clustersOf h.pmodeNow h.grant

/-- Take hart `i` out of the line for a cluster. -/
def Core.leaveLine (k : Core) (i c : Nat) : Core := { k with line := modAt (fun l => l.filter (· != i)) c k.line }

/-- Hart `i` leaves the line of every cluster but some. -/
def Core.keepLines (i : Nat) (keep : List Nat) (k : Core) : Core :=
  (upTo 8).foldl (fun k c => if keep.contains c then k else k.leaveLine i c) k

/-- The hart in hand leaves the lines of clusters that neither its GRANT nor that of a head still ahead of it names (R55, R96). -/
def State.trimLines (s : State) : State :=
  s.mapCore (Core.keepLines (s.h.id % 4) (s.h.usedClusters ++ (s.h.ahead.filterMap Ahead.grants).flatMap (clustersOf s.h.pmode)))

/-- Discard what the pipeline of the hart in hand holds; the GRANT of a strip head in it is held no longer (R54, R96). -/
def State.dropAhead (s : State) : State :=
  let t := s.mapH Hart.dropAhead
  if s.h.ahead.any (fun e => e.grants.isSome) then t.trimLines else t

/-- Has a strip head that the pipeline has executed ahead made a farm claim (R160, R292)? -/
def Hart.claimAhead (h : Hart) : Bool := h.ahead.any (fun e => match e.kind with | .head _ (some _) _ => true | _ => false)

/-- Discard the queued convoys and stream instructions of the hart in hand, and what its pipeline holds behind them (R96). -/
def State.discardQueues (s : State) : State :=
  let ps := s.h.convoys.flatMap (·.claimed)
  (s.dropAhead.mapCore (Core.releaseClaims ps)).mapH (fun h => { h with convoys := [], squeue := [] })

/-- Raise a synchronous cause (R288, R290, R302): halt for a debugger, enter the handler with the strip sealed first
(R164), or stop for good. With a debugger attached BRK and DBG halt the hart also where TE = 0 (DESIGN CHOICE, log 71: R290 and R302 are not
ordered). -/
def State.raise (s : State) (t : TrapInfo) : State :=
  if s.h.trap.dbga ∧ (t.cause = .brk ∨ t.cause = .dbg) then s.dropAhead.mapH (fun h => { h with halted := true })
  else if s.h.trap.te then s.discardQueues.seal.enter t
  else s.fatal t

/-- Return from a trap (R289), past the privilege check. The strip store buffer is empty then (R164), so that a strip of the handler that
is still open closes first (log 15). -/
def State.leave (s : State) : State :=
  (if s.h.loops.opn then s.commitSsb else s).mapH (fun h => { h with
    pc := h.trap.epc, loops := h.shadow, ckpt := none,
    trap := { h.trap with sup := h.trap.psup, te := h.trap.pte, live := false, skip := false },
    event := true, skipNow := h.trap.skip })

/-! ### Rewinds (R161, R162) -/

/-- Rewind the open strip to its checkpoint, counted or not (R161). -/
def State.rewind (s : State) (counted : Bool) : State :=
  match s.h.ckpt with
  | none => s
  | some c =>
    s.discardQueues.mapH (fun h =>
      let rw := if counted then (if h.loops.rewinds = 15 then 15 else h.loops.rewinds + 1) else h.loops.rewinds
      let base := { c.loops with opn := false, sealed := false, replay := true, rewinds := rw }
      let loops := match base.active.find? (fun p => p.2.strip) with
        | some (n, l) =>
          (match c.claim with
            | some (_, len) => base.setLevel n { l.withSvl 0 with lcnt := len }
            | none => base)
        | none => base
      { h with
        x := c.xs.foldl (fun x p => if p.1 = 0 then x else x.set p.1 p.2) h.x, vmt := c.vmt, loops := loops, pc := c.pc,
        xstrip := (match c.claim with | some (b, _) => b | none => h.xstrip), ssb := [], ckpt := none,
        wait := .none })

/-- A request to rewind, of an access that aborted or of a mismatch (Table 8.7). -/
def State.requestRewind (s : State) (t : TrapInfo) : State :=
  if !s.h.loops.opn then s.raise { t with cause := .data }
  else if s.h.loops.sealed then s.raise { t with cause := .strip }
  else if s.h.loops.rewinds.toNat < s.h.retry.toNat then s.rewind true
  else s.raise { t with cause := .data }

/-- An abort completion for an access of the hart in hand to EVAL, found at die `die`: the error log there records it, and it asks for a
rewind (R296, Table 19.7). -/
def State.abortedOn (s : State) (die : Nat) (t : TrapInfo) : State :=
  (s.logError die .abort t.eval.toNat s.h.id s.h.ctxid.toNat).requestRewind { t with cause := .data }

/-- An abort completion for an access of the hart in hand to a translated address, or to the local window. -/
def State.aborted (s : State) (t : TrapInfo) : State :=
  let own := dieOfHart s.h.id
  s.abortedOn (if localBase ≤ t.eval.toNat then own else s.finder s.h.ctxid own t.eval) t

/-- Deny an access: PAGE, PERM, or what an abort completion asks for (R83, R296). -/
def State.deny (s : State) (d : Denial) (t : TrapInfo) : State :=
  match d with
  | .page => s.raise { t with cause := .page }
  | .perm => s.raise { t with cause := .perm }
  | .abort => s.aborted t

/-! ### Outcomes -/

/-- The outcome of a step. -/
abbrev Out := Host.Outcome State Fault Refusal

/-- Take a trap as the outcome of an instruction. -/
def State.trapped (s : State) (c : Cause) (v : Word) : Out := .next (s.raise (s.refusal c v))

end Sys2Proof.Machine
end

