-- ==== Sys2Proof/Machine/Debug.lean ====
section
/-!
DEFINITION. Sys2Proof/Machine/Debug.lean: breakpoints and snapshot triggers (R300, R301, R303 of
spec/19_faults_and_reliability.md).
-/
namespace Sys2Proof.Machine

/-- Does breakpoint `n` of the hart match an address of the kind of access (R301)? None does for the word or convoy at which an ERET with
SKIP set goes on (R289). -/
def Hart.bpMatches (h : Hart) (kinds : List Nat) (a : Word) (n : Nat) : Bool :=
  let c := (h.dbctl.getD n 0).toNat
  bitAt c 0 && h.trap.te && !h.skipping && kinds.contains (c / 2 % 4)
    && (a ^^^ h.dba.getD n 0).toNat / 2 ^ (c / 16 % 64) == 0
    && (!bitAt c 3 || h.ctxid.toNat == c / 2 ^ 16)

/-- The lowest breakpoint that matches an address, if any. -/
def Hart.bpFind (h : Hart) (kinds : List Nat) (a : Word) : Option Nat := (upTo 8).find? (h.bpMatches kinds a)

/-- The lowest breakpoint that matches a byte of an access, with the lowest such byte (R301). -/
def Hart.bpRange (h : Hart) (kinds : List Nat) (a : Word) (n : Nat) : Option (Nat × Word) :=
  let hits := (upTo n).filterMap (fun i => (h.bpFind kinds (a + BitVec.ofNat 64 i)).map (fun b => (b, a + BitVec.ofNat 64 i)))
  match hits with
  | [] => none
  | p :: ps => some (ps.foldl (fun q r => if r.1 < q.1 then r else q) p)

/-- The kinds that a read, a write, and a read with a write are compared with (Table 19.9). -/
def bpRead : List Nat := [1, 3]
def bpWrite : List Nat := [2, 3]
def bpBoth : List Nat := [1, 2, 3]

/-- Trigger a device-wide snapshot (R303): the stamp is TIME plus 64; a trigger while one is held, or on its way (log 13),
latches nothing and counts as missed. -/
def State.triggerSnapshot (s : State) : State :=
  if s.dev.snapHeld ∨ s.dev.snapshot.isSome then
    (upTo 6).foldl (fun s d =>
      if s.poisoned (windowKey d 0x10080) 4 then (s.logWindow d 0x10080).hearthWrite d 0x10080 4 1
      else s.hearthWrite d 0x10080 4 (readLE s.mem.read (windowKey d 0x10080) 4 + 1)) s
  else ((upTo 6).foldl (fun s d => s.hearthWrite d 0x10080 8 0) s).mapDev (fun d => { d with snapshot := some (d.time + 64) })

/-- Does a breakpoint that matches one of `n` bytes from `a` ask for a snapshot (R303)? -/
def Hart.bpSnaps (h : Hart) (kinds : List Nat) (a : Word) (n : Nat) : Bool :=
  (upTo 8).any (fun b => bitAt (h.dbctl.getD b 0).toNat 10 && (upTo n).any (fun i => h.bpMatches kinds (a + BitVec.ofNat 64 i) b))

/-- A breakpoint match (R301): it triggers a snapshot when SNAPT of a matching breakpoint says so, and refuses the word or convoy with
DBG. -/
def State.breakAt (s : State) (n : Nat) (snap : Bool) (t : TrapInfo) : State :=
  (if snap then s.triggerSnapshot else s).raise { t with cause := .dbg, bp := n }

/-- How a denial stops a word. -/
def Denial.stop (d : Denial) (t : TrapInfo) : Stop :=
  match d with
  | .page => .trap { t with cause := .page }
  | .perm => .trap { t with cause := .perm }
  | .abort => .abort { t with cause := .data }

/-- The failure that a trap reports is held no longer (R261). -/
def Hart.dropHeld (h : Hart) (desc : Word) (t : TrapInfo) : Hart :=
  { h with heldFail := h.heldFail.eraseP (fun f => f.desc == desc && f.cause == t.cause && f.address == t.eval) }

/-- What stops a word or convoy is taken. -/
def State.stopAt (s : State) : Stop → State
  | .trap t => s.raise t
  | .abort t => s.aborted t
  | .dbg n snap t => s.breakAt n snap t
  | .held d t => (s.mapH (·.dropHeld d t)).raise t

/-- The breakpoint that a data access of `n` bytes at `va` meets, if any; the refusal `t` names the access (R301). -/
def Hart.bpStop (h : Hart) (kinds : List Nat) (va : Word) (n : Nat) (t : TrapInfo) : Option Stop :=
  (h.bpRange kinds va n).map (fun b => .dbg b.1 (h.bpSnaps kinds va n) { t with eval := b.2 })

end Sys2Proof.Machine
end

