-- ==== Sys2Proof/Machine/Operands.lean ====
section
/-!
DEFINITION. Sys2Proof/Machine/Operands.lean: every operand form: immediates and offsets of the scalar formats (R18, R77,
R78, R82, R85, R86), the second operand of the vector forms (R22, R23, R113), masks (R24), element addresses (R213).
-/
namespace Sys2Proof

/-- The imm16 of form VI (Table 2.5). -/
def VArgs.imm16 (v : VArgs) : BitVec 16 := v.ext.extractLsb' 10 16

/-- The modifiers of form VI (Table 2.5). -/
def VArgs.modVI (v : VArgs) : Nat := v.ext.toNat % 2 ^ 10

/-- xb of form VM (Table 2.5). -/
def VArgs.xb (v : VArgs) : XReg := v.ext.extractLsb' 21 5

/-- The modifiers of form VM. -/
def VArgs.modVM (v : VArgs) : Nat := v.ext.toNat % 2 ^ 21

/-- IW of an indexed form (R213). -/
def VArgs.iw (v : VArgs) : Nat := v.ext.toNat % 4

/-- Fields of form MX (Table 2.5). -/
def VArgs.pane (v : VArgs) : Nat := v.ext.toNat / 2 ^ 20
def VArgs.rows (v : VArgs) : Nat := v.ext.toNat / 2 ^ 16 % 16
def VArgs.fwd (v : VArgs) : Nat := v.ext.toNat / 2 ^ 13 % 8
def VArgs.fMX (v : VArgs) : Nat := v.ext.toNat / 2 ^ 10 % 8
def VArgs.modMX (v : VArgs) : Nat := v.ext.toNat % 2 ^ 10

/-- Fields of form PK (Table 2.5). -/
def VArgs.fPK (v : VArgs) : Nat := v.ext.toNat / 2 ^ 23
def VArgs.modPK (v : VArgs) : Nat := v.ext.toNat % 2 ^ 23

/-- Fields of form HS (Table 2.5). -/
def VArgs.hHS (v : VArgs) : Nat := v.ext.toNat / 2 ^ 24
def VArgs.modHS (v : VArgs) : Nat := v.ext.toNat % 2 ^ 24

/-- HCODE's pane, HINS's VE, HPROBE's NEWC, HOP and KD (Table 15.6). -/
def VArgs.hPane (v : VArgs) : Nat := v.modHS / 2 ^ 18
def VArgs.ve (v : VArgs) : Nat := v.modHS / 2 ^ 16 % 64
def VArgs.newc (v : VArgs) : Bool := v.modHS / 2 ^ 23 == 1
def VArgs.hop (v : VArgs) : Nat := v.modHS / 16 % 4
def VArgs.kd (v : VArgs) : Nat := v.modHS % 16

/-- Is element `e` active under the mask registers `k` (R24)? -/
def VArgs.active (v : VArgs) (k : List (BitVec 4096)) (e : Nat) : Bool :=
  if v.km = 15 then true else (k.getD v.km.toNat 0).getLsbD e != v.kinv

/-- Width of the index elements of an indexed form (R213). -/
def VArgs.indexWidth (v : VArgs) (sew : Nat) : Nat := match v.iw with | 0 => sew | 1 => 32 | _ => 64

/-- Do the fields that a stream or tile word does not use hold zero, and its mode a defined value (R210, R226; Tables 12.5,
13.3)? QAVAIL and TSTAT name their destination in xa. -/
def wqFieldsOk : Instr → Bool
  | .qld q => q.mode.toNat < 3
  | .qst q => q.mode.toNat % 4 != 3
  | .qred q => q.mode == 0
  | .qfold q => q.xb == 0 && q.mode.toNat < 2
  | .qnvm q => q.mode.toNat < 2 && (if q.mode = 0 then q.tn == 0 else q.xb == 0)
  | .qwait q => q.tn == 0 && q.xb == 0 && q.mode == 0
  | .qavail q => q.tn == 0 && q.xb == 0 && q.mode == 0
  | .qclose q => q.tn == 0 && q.xa == 0 && q.xb == 0 && q.mode == 0
  | .qsave q => q.tn == 0 && q.xb == 0 && q.mode == 0
  | .qrest q => q.tn == 0 && q.xb == 0 && q.mode == 0
  | .talloc q => q.qn == 0 && q.mode == 0
  | .tfree q => q.qn == 0 && q.xa == 0 && q.xb == 0 && q.mode == 0
  | .tstat q => q.qn == 0 && q.xb == 0 && q.mode == 0
  | .tset q => q.qn == 0 && q.xa == 0 && q.xb == 0 && q.mode == 1
  | .tred q => q.qn == 0 && q.xb == 0 && q.mode == 0
  | _ => true

end Sys2Proof

namespace Sys2Proof.Machine

/-! ### Scalar immediates -/

/-- sext(imm14) (R77). -/
def immWI (i : BitVec 14) : Word := i.signExtend 64

/-- A byte offset of a load or store (R82). -/
def offMem (o : BitVec 15) : Word := o.signExtend 64

/-- A branch offset in words, in bytes (R85). -/
def offBranch (o : BitVec 15) : Word := o.signExtend 64 * 4

/-- A JAL offset in words, in bytes (R86). -/
def offJal (o : BitVec 23) : Word := o.signExtend 64 * 4

/-- A JALR offset in bytes (R86). -/
def offJalr (o : BitVec 18) : Word := o.signExtend 64

/-- An LBRK offset in words, in bytes (R155). -/
def offLbrk (o : BitVec 16) : Word := o.signExtend 64 * 4

/-- sext(imm23) << 14 (R78). -/
def immUpper (i : BitVec 23) : Word := i.signExtend 64 <<< 14

/-! ### Vector operands -/

/-- Codes of the forms (Table 2.5). -/
def formVV : BitVec 3 := 0
def formVX : BitVec 3 := 1
def formVI : BitVec 3 := 2
def formVM : BitVec 3 := 4
def formMX : BitVec 3 := 5
def formPK : BitVec 3 := 6
def formHS : BitVec 3 := 7

/-- A vector register under its name as encoded (R152). -/
def vname (l : Loops) (regs : List VReg) (n : Nat) : VReg := regs.getD (l.physical n) { bits := 0, tag := 0 }

/-- The second operand b(e) at width `w`: vs2, the low bits of X[xs], or the low bits of sext(imm16) (R23, R113). -/
def secondOf (v : VArgs) (l : Loops) (regs : List VReg) (x : Word) (w e : Nat) : Nat :=
  if v.form = formVX then x.toNat % 2 ^ w
  else if v.form = formVI then (v.imm16.signExtend 64).toNat % 2 ^ w
  else (vname l regs v.vs2.toNat).elem w e

end Sys2Proof.Machine
end

