-- ==== Sys2Proof/Decode.lean ====
section
/-!
DEFINITION. Sys2Proof/Decode.lean: from bits to instructions and back (R14 to R30 of spec/02_encoding.md, R34 to R37 of
spec/03_opcode_map.md; field tables 7.2, 8.1, 9.4, 11.4, 12.8, 15.6). Decoding is total: a word that is no instruction decodes
to NON_INSTRUCTION_ENCODING, and a vector word that is none is refused with the step of Table 2.6 that refuses it.
-/
namespace Sys2Proof

/-! ### Fields of a scalar word (R18) -/

/-- Bits [lo + n - 1 : lo] of an instruction word. -/
abbrev bitsOf (w : Word32) (lo n : Nat) : BitVec n := w.extractLsb' lo n

/-- A word that is no instruction (R30). -/
def notInstr (w : Word32) : Instr := .nonInstructionEncoding w

/-- Scopes (Table 3.2). -/
def scopeOf : Nat → Option Scope
  | 0 => some .hart
  | 1 => some .core
  | 2 => some .clu
  | 3 => some .die
  | 4 => some .dev
  | 5 => some .sys
  | _ => none

def Scope.code : Scope → BitVec 3
  | .hart => 0
  | .core => 1
  | .clu => 2
  | .die => 3
  | .dev => 4
  | .sys => 5

/-- Orders of a scalar atomic (Table 3.2); bit [7] is required to be 0. -/
def orderOf : Nat → Option AmoOrder
  | 0 => some .rlx
  | 1 => some .acq
  | 2 => some .rel
  | 3 => some .ar
  | _ => none

def AmoOrder.code : AmoOrder → BitVec 3
  | .rlx => 0
  | .acq => 1
  | .rel => 2
  | .ar => 3

def AmoSize.code : AmoSize → BitVec 1
  | .w => 0
  | .d => 1

/-- Kinds of FENCE (Table 3.2). -/
def fenceOf : Nat → Option FenceKind
  | 0 => some .sv
  | 1 => some .vs
  | 2 => some .vv
  | 3 => some .all
  | _ => none

def FenceKind.code : FenceKind → BitVec 3
  | .sv => 0
  | .vs => 1
  | .vv => 2
  | .all => 3

/-! ### Scalar function values (Tables 3.1, 3.2) -/

/-- W3 instructions with three registers (Table 3.1). -/
def tableW3 : Nat → Option (XReg → XReg → XReg → Instr)
  | 0x00 => some .add
  | 0x01 => some .sub
  | 0x02 => some .and
  | 0x03 => some .or
  | 0x04 => some .xor
  | 0x05 => some .sll
  | 0x06 => some .srl
  | 0x07 => some .sra
  | 0x08 => some .slt
  | 0x09 => some .sltu
  | 0x0A => some .min
  | 0x0B => some .max
  | 0x0C => some .minu
  | 0x0D => some .maxu
  | 0x0E => some .andn
  | 0x10 => some .mul
  | 0x11 => some .mulh
  | 0x12 => some .mulhu
  | 0x13 => some .div
  | 0x14 => some .divu
  | 0x15 => some .rem
  | 0x16 => some .remu
  | 0x20 => some .vsetvl
  | _ => none

/-- W3 instructions with two registers (Table 3.1): xb is required to be 0. -/
def tableW3Two : Nat → Option (XReg → XReg → Instr)
  | 0x18 => some .clz
  | 0x19 => some .ctz
  | 0x1A => some .popc
  | _ => none

/-- WI instructions with an immediate (Table 3.2). -/
def tableWI : Nat → Option (XReg → XReg → BitVec 14 → Instr)
  | 0 => some .addi
  | 1 => some .andi
  | 2 => some .ori
  | 3 => some .xori
  | 4 => some .slti
  | 5 => some .sltiu
  | _ => none

/-- WI shifts (Table 3.2): imm[13:6] is required to be 0. -/
def tableShift : Nat → Option (XReg → XReg → BitVec 6 → Instr)
  | 6 => some .slli
  | 7 => some .srli
  | 8 => some .srai
  | _ => none

/-- Loads, stores and branches (Table 3.2). -/
def tableWL : Nat → Option (XReg → XReg → BitVec 15 → Instr)
  | 0 => some .ldb
  | 1 => some .ldh
  | 2 => some .ldw
  | 3 => some .ldd
  | 4 => some .ldbu
  | 5 => some .ldhu
  | 6 => some .ldwu
  | _ => none

def tableWS : Nat → Option (XReg → XReg → BitVec 15 → Instr)
  | 0 => some .stb
  | 1 => some .sth
  | 2 => some .stw
  | 3 => some .std
  | _ => none

def tableWB : Nat → Option (XReg → XReg → BitVec 15 → Instr)
  | 0 => some .beq
  | 1 => some .bne
  | 2 => some .blt
  | 3 => some .bge
  | 4 => some .bltu
  | 5 => some .bgeu
  | _ => none

/-- Atomics (Table 3.2). -/
def tableWA : Nat → Option (XReg → XReg → XReg → AmoSize → AmoOrder → Scope → Instr)
  | 0 => some .amoswap
  | 1 => some .amoadd
  | 2 => some .amoand
  | 3 => some .amoor
  | 4 => some .amoxor
  | 5 => some .amomin
  | 6 => some .amomax
  | 7 => some .amominu
  | 8 => some .amomaxu
  | 9 => some .amocas
  | _ => none

/-- CSR accesses (Table 3.2). -/
def tableCsr : Nat → Option (XReg → XReg → BitVec 12 → Instr)
  | 0 => some .csrrw
  | 1 => some .csrrs
  | 2 => some .csrrc
  | 3 => some .csrrwi
  | _ => none

/-- WY instructions without operands (Table 3.2). -/
def tablePlain : Nat → Option Instr
  | 5 => some .eret
  | 9 => some .yield
  | 10 => some .snap
  | 11 => some .brk
  | 12 => some .ifence
  | _ => none

/-- Stream and tile instructions (Table 3.2). -/
def tableWQ : Nat → Option (WqArgs → Instr)
  | 0x00 => some .qld
  | 0x01 => some .qst
  | 0x02 => some .qred
  | 0x03 => some .qfold
  | 0x04 => some .qnvm
  | 0x05 => some .qwait
  | 0x06 => some .qavail
  | 0x07 => some .qclose
  | 0x08 => some .qsave
  | 0x09 => some .qrest
  | 0x10 => some .talloc
  | 0x11 => some .tfree
  | 0x12 => some .tstat
  | 0x13 => some .tset
  | 0x14 => some .tred
  | _ => none

/-- Bit-field and funnel instructions (Table 3.2). -/
def tableField : Nat → Option (XReg → XReg → BitVec 6 → BitVec 6 → Instr)
  | 0 => some .bext
  | 1 => some .bextu
  | 2 => some .bins
  | _ => none

def tableFunnel : Nat → Option (XReg → XReg → XReg → BitVec 6 → Instr)
  | 3 => some .fshl
  | 4 => some .fshr
  | _ => none

/-! ### Decoding a scalar word (Tables 2.1, 2.7) -/

/-- Keep an instruction whose zero fields hold zero. -/
def keepIf (w : Word32) (b : Bool) (i : Instr) : Instr := if b then i else notInstr w

def decodeW3 (w : Word32) : Instr :=
  let fn := (bitsOf w 6 7).toNat
  match tableW3 fn, tableW3Two fn with
  | some c, _ => keepIf w (bitsOf w 0 6 == 0) (c (bitsOf w 23 5) (bitsOf w 18 5) (bitsOf w 13 5))
  | none, some c => keepIf w (bitsOf w 0 6 == 0 && bitsOf w 13 5 == 0) (c (bitsOf w 23 5) (bitsOf w 18 5))
  | none, none => notInstr w

def decodeWI (w : Word32) : Instr :=
  let fn := (bitsOf w 14 4).toNat
  match tableWI fn, tableShift fn with
  | some c, _ => c (bitsOf w 23 5) (bitsOf w 18 5) (bitsOf w 0 14)
  | none, some c => keepIf w (bitsOf w 6 8 == 0) (c (bitsOf w 23 5) (bitsOf w 18 5) (bitsOf w 0 6))
  | none, none => notInstr w

/-- WL, WS and WB: two registers, a function value in [17:15], 15 bits of offset. -/
def decodeOff (t : Nat → Option (XReg → XReg → BitVec 15 → Instr)) (w : Word32) : Instr :=
  match t (bitsOf w 15 3).toNat with
  | some c => c (bitsOf w 23 5) (bitsOf w 18 5) (bitsOf w 0 15)
  | none => notInstr w

def decodeWA (w : Word32) : Instr :=
  match tableWA (bitsOf w 9 4).toNat, orderOf (bitsOf w 5 3).toNat, scopeOf (bitsOf w 2 3).toNat with
  | some c, some o, some p => keepIf w (bitsOf w 0 2 == 0)
      (c (bitsOf w 23 5) (bitsOf w 18 5) (bitsOf w 13 5) (if bitsOf w 8 1 = 0 then .w else .d) o p)
  | _, _, _ => notInstr w

def decodeWY (w : Word32) : Instr :=
  let fn := (bitsOf w 24 4).toNat
  match tableCsr fn, tablePlain fn with
  | some c, _ => keepIf w (bitsOf w 0 2 == 0) (c (bitsOf w 19 5) (bitsOf w 14 5) (bitsOf w 2 12))
  | none, some i => keepIf w (bitsOf w 0 24 == 0) i
  | none, none =>
    match fn with
    | 4 => keepIf w (bitsOf w 14 10 == 0) (.trap (bitsOf w 0 14))
    | 6 => match fenceOf (bitsOf w 11 3).toNat, scopeOf (bitsOf w 8 3).toNat with
      | some k, some p => keepIf w (bitsOf w 14 10 == 0 && bitsOf w 0 8 == 0) (.fence k p)
      | _, _ => notInstr w
    | 7 => match scopeOf (bitsOf w 8 3).toNat with
      | some p => keepIf w (bitsOf w 19 5 == 0 && bitsOf w 11 3 == 0 && bitsOf w 0 8 == 0) (.bar (bitsOf w 14 5) p)
      | none => notInstr w
    | 8 => keepIf w (bitsOf w 19 5 == 0 && bitsOf w 0 14 == 0) (.wfe (bitsOf w 14 5))
    | _ => notInstr w

def decodeWP (w : Word32) : Instr :=
  match (bitsOf w 26 2).toNat with
  | 0 => keepIf w (bitsOf w 16 1 == 0) (.loop (bitsOf w 21 5) (bitsOf w 18 3) (bitsOf w 17 1 == 1) (bitsOf w 0 16))
  | 1 => .loops (bitsOf w 21 5) (bitsOf w 18 3) (bitsOf w 17 1 == 1) (bitsOf w 16 1 == 1) (bitsOf w 0 16)
  | 2 => match (bitsOf w 22 4).toNat with
    | 0 => keepIf w (bitsOf w 0 18 == 0) (.lexit (bitsOf w 18 4))
    | 1 => keepIf w (bitsOf w 16 4 == 0) (.lbrk (bitsOf w 20 2) (bitsOf w 0 16))
    | 2 => keepIf w (bitsOf w 0 20 == 0) (.lpop (bitsOf w 20 2))
    | _ => notInstr w
  | _ => notInstr w

def decodeWQ (w : Word32) : Instr :=
  let fn := (bitsOf w 23 5).toNat
  match tableWQ fn with
  | some c => c { qn := bitsOf w 19 4, tn := bitsOf w 13 6, xa := bitsOf w 8 5, xb := bitsOf w 3 5, mode := bitsOf w 0 3 }
  | none =>
    if fn = 0x18 then
      keepIf w (bitsOf w 13 1 == 0 && bitsOf w 0 1 == 0)
        (.vsetvli (bitsOf w 3 5) (bitsOf w 8 5) (bitsOf w 20 3) (bitsOf w 17 3) (bitsOf w 14 3) (bitsOf w 1 2))
    else notInstr w

def decodeWF (w : Word32) : Instr :=
  let fn := (bitsOf w 25 3).toNat
  match tableField fn, tableFunnel fn with
  | some c, _ => keepIf w (bitsOf w 0 3 == 0) (c (bitsOf w 20 5) (bitsOf w 15 5) (bitsOf w 9 6) (bitsOf w 3 6))
  | none, some c => keepIf w (bitsOf w 0 4 == 0) (c (bitsOf w 20 5) (bitsOf w 15 5) (bitsOf w 10 5) (bitsOf w 4 6))
  | none, none =>
    if fn = 5 then keepIf w (bitsOf w 0 10 == 0) (.bextv (bitsOf w 20 5) (bitsOf w 15 5) (bitsOf w 10 5)) else notInstr w

/-- The fields of a convoy header (Table 2.2). -/
def headerOf (w : Word32) : ConvoyHeader :=
  { nMinus1 := bitsOf w 25 3, stg := bitsOf w 24 1 == 1, stage := bitsOf w 21 3, slot0 := bitsOf w 18 3,
    slot1 := bitsOf w 15 3, slot2 := bitsOf w 12 3, slot3 := bitsOf w 9 3, slot4 := bitsOf w 6 3, slot5 := bitsOf w 3 3,
    long := bitsOf w 2 1 == 1, pri := bitsOf w 0 2 }

/-- The instruction of a word; a convoy header decodes to a convoy without its vector words yet. -/
def decodeWord (w : Word32) : Instr :=
  match (bitsOf w 28 4).toNat with
  | 0x0 => decodeW3 w
  | 0x1 => decodeWI w
  | 0x2 => decodeOff tableWL w
  | 0x3 => decodeOff tableWS w
  | 0x4 => decodeOff tableWB w
  | 0x5 => .jal (bitsOf w 23 5) (bitsOf w 0 23)
  | 0x6 => .jalr (bitsOf w 23 5) (bitsOf w 18 5) (bitsOf w 0 18)
  | 0x7 => .lui (bitsOf w 23 5) (bitsOf w 0 23)
  | 0x8 => .addpc (bitsOf w 23 5) (bitsOf w 0 23)
  | 0x9 => decodeWA w
  | 0xA => decodeWY w
  | 0xB => decodeWP w
  | 0xC => decodeWQ w
  | 0xD => decodeWF w
  | 0xF => .convoy (headerOf w) []
  | _ => notInstr w

/-! ### The convoy header (R19, R20) -/

/-- Number of vector words. -/
def ConvoyHeader.count (h : ConvoyHeader) : Nat := h.nMinus1.toNat + 1

/-- Unit codes of the slots. -/
def ConvoyHeader.slots (h : ConvoyHeader) : List Nat :=
  [h.slot0.toNat, h.slot1.toNat, h.slot2.toNat, h.slot3.toNat, h.slot4.toNat, h.slot5.toNat]

/-- Unit codes of the slots below N. -/
def ConvoyHeader.units (h : ConvoyHeader) : List Nat := h.slots.take h.count

/-- Does no value stand twice? -/
def distinct : List Nat → Bool
  | [] => true
  | a :: l => !l.contains a && distinct l

/-- Step 3 of Table 2.6 holds. -/
def ConvoyHeader.encOk (h : ConvoyHeader) : Bool :=
  h.nMinus1.toNat ≤ 5 && h.units.all (· < 6) && distinct h.units && (h.slots.drop h.count).all (· == 0)

/-- Step 4 of Table 2.6 holds. -/
def ConvoyHeader.illOk (h : ConvoyHeader) : Bool := h.stg || h.stage == 0

/-- The header passes; only then are its vector words fetched. -/
def ConvoyHeader.ok (h : ConvoyHeader) : Bool := h.encOk && h.illOk

/-! ### Vector words (R21 to R25, R37) -/

/-- The fields of a vector word (Table 2.4). -/
def vargsOf (w : Word) : VArgs :=
  { vd := w.extractLsb' 51 6, vs1 := w.extractLsb' 45 6, vs2 := w.extractLsb' 39 6, km := w.extractLsb' 35 4,
    kinv := w.extractLsb' 34 1 == 1, form := w.extractLsb' 31 3, xs := w.extractLsb' 26 5, ext := w.extractLsb' 0 26 }

/-- op7 of a vector word. -/
def op7Of (w : Word) : Nat := (w.extractLsb' 57 7).toNat

/-- What an instruction does with the fields of its word: the forms it accepts, the register fields it uses, its modifier
bits, whether it takes a mask, whether vs1 and vs2 are both vector registers (R25), and the field values it refuses. -/
structure VShape where
  forms  : List Nat
  vd     : Bool := true
  vs1    : Bool := true
  vs2    : VArgs → Bool := fun _ => false
  xs     : Bool := false
  xb     : Bool := false
  rows   : Bool := false
  fwd    : Bool := false
  fr     : Bool := false
  hr     : Bool := true
  masked : Bool := true
  bank   : Bool := true
  mods   : Nat := 0
  bad    : VArgs → Bool := fun _ => false

/-- Modifiers of the form. -/
def VArgs.mods (v : VArgs) : Nat :=
  match v.form.toNat with
  | 0 => v.ext.toNat
  | 1 => v.ext.toNat
  | 2 => v.modVI
  | 4 => v.modVM
  | 5 => v.modMX
  | 6 => v.modPK
  | 7 => v.modHS
  | _ => 0

/-- Is vs2 used? -/
def VShape.uses2 (sh : VShape) (v : VArgs) : Bool := v.form != 1 && v.form != 2 && sh.vs2 v

/-- Is xs used? -/
def VShape.usesX (sh : VShape) (v : VArgs) : Bool := v.form == 1 || v.form == 4 || (v.form != 2 && sh.xs)

/-- Do the fields that the instruction does not use hold zero (R21, Table 2.5)? -/
def VShape.zeros (sh : VShape) (v : VArgs) : Bool :=
  (sh.vd || v.vd == 0) && (sh.vs1 || v.vs1 == 0) && (sh.uses2 v || v.vs2 == 0) && (sh.usesX v || v.xs == 0)
    && (v.form != 4 || sh.xb || v.xb == 0) && (v.form != 5 || sh.rows || v.rows == 0)
    && (v.form != 5 || sh.fwd || v.fwd == 0) && (v.form != 5 || sh.fr || v.fMX == 0) && (v.form != 7 || sh.hr || v.hHS == 0)
    && (v.mods &&& sh.mods) == v.mods

/-- Step 6 of Table 2.6 fails, the bank rule apart (R21, R22). -/
def VArgs.encFault (v : VArgs) : Bool :=
  48 ≤ v.vd.toNat || 48 ≤ v.vs1.toNat || 48 ≤ v.vs2.toNat || (12 ≤ v.km.toNat && v.km.toNat ≤ 14)
    || (v.form == 5 && 48 ≤ v.pane)

/-- The bank rule fails (R25). -/
def VShape.bankFault (sh : VShape) (v : VArgs) : Bool :=
  sh.bank && sh.vs1 && sh.uses2 v && sh.forms.contains v.form.toNat && v.vs1.toNat % 2 == v.vs2.toNat % 2

/-- Step 7 of Table 2.6 holds: form, mask, unused fields, field values. -/
def VShape.accepts (sh : VShape) (v : VArgs) : Bool :=
  sh.forms.contains v.form.toNat && !(v.kinv && v.km == 15) && (sh.masked || v.km == 15) && sh.zeros v && !sh.bad v

/-! The shapes -/

/-- vs2 is a source in form VV. -/
def second : VArgs → Bool := fun _ => true

/-- The number of a mask register (R116, R131). -/
def badMask (f : VArgs → BitVec 6) (v : VArgs) : Bool := 12 ≤ (f v).toNat

def shapeInt : VShape := { forms := [0, 1, 2], vs2 := second }
def shapeXI : VShape := { forms := [1, 2], vs2 := second }
def shapeOne (m : Nat) : VShape := { forms := [0], mods := m }
def shapeCmp : VShape := { forms := [0, 1, 2], vs2 := second, bad := badMask VArgs.vd }
def shapeCmpXI : VShape := { forms := [1, 2], vs2 := second, bad := badMask VArgs.vd }
def shapeFp (m : Nat) : VShape := { forms := [0, 1], vs2 := second, mods := m }
/-- VFSGN (R121): mode 3 is refused. -/
def shapeSgn : VShape := { forms := [0, 1], vs2 := second, mods := 3, bad := fun v => v.ext.toNat % 4 == 3 }
def shapeFpCmp : VShape := { forms := [0, 1], vs2 := second, bad := badMask VArgs.vd }
/-- VFCVT (R124): conversions 0 to 7. -/
def shapeCvt : VShape := { forms := [0], mods := 15, bad := fun v => 8 ≤ v.ext.toNat % 16 }
def shapeScale : VShape := { forms := [0], masked := false, mods := 1 }
def shapeBlock : VShape := { forms := [0], vs2 := second, masked := false, mods := 1 }
def shapeId : VShape := { forms := [0], vs1 := false }
/-- Slides (R137): a negative immediate is refused. -/
def shapeSlide : VShape := { forms := [1, 2], bad := fun v => v.form == 2 && v.imm16.msb }
def shapeTwo : VShape := { forms := [0], vs2 := second }
def shapeMvxs : VShape := { forms := [0], vd := false, xs := true, masked := false }
def shapeMvsx : VShape := { forms := [0], vs1 := false, xs := true, masked := false }
def shapeIota : VShape := { forms := [0], bad := badMask VArgs.vs1 }
def shapeMask2 : VShape :=
  { forms := [0], vs2 := second, masked := false, bank := false,
    bad := fun v => badMask VArgs.vd v || badMask VArgs.vs1 v || badMask VArgs.vs2 v }
def shapeMask1 : VShape :=
  { forms := [0], masked := false, bad := fun v => badMask VArgs.vd v || badMask VArgs.vs1 v }
def shapeQuery : VShape := { forms := [0], vd := false, xs := true, bad := badMask VArgs.vs1 }
def shapeSetn : VShape := { forms := [0], vs1 := false, xs := true, masked := false, bad := badMask VArgs.vd }
def shapeMem : VShape := { forms := [4], vs1 := false }
def shapeStrided : VShape := { forms := [4], vs1 := false, xb := true }
/-- Indexed forms (R213): IW = 3 is refused. -/
def shapeIndexed : VShape := { forms := [4], vs1 := false, vs2 := second, mods := 3, bad := fun v => v.iw == 3 }
def shapeMaskMem : VShape := { forms := [4], vs1 := false, masked := false, bad := badMask VArgs.vd }
/-- A register group starts at a multiple of 8 (R190). -/
def badGroup (v : VArgs) : Bool := v.vd.toNat % 8 != 0
def shapeMma : VShape := { forms := [5], vs2 := second, rows := true, bank := false, bad := badGroup }
def shapeMconv : VShape :=
  { forms := [5], rows := true, fwd := true, fr := true, masked := false, mods := 1, bad := fun v => badGroup v || 8 ≤ v.rows }
def shapeMzero : VShape := { forms := [5], vd := false, vs1 := false, masked := false, mods := 3 }
def shapeRow : VShape := { forms := [5], vs1 := false, rows := true, masked := false }
def shapeConv : VShape := { forms := [6], vs2 := second, masked := false, mods := 1 }
def shapePack (m : Nat) : VShape := { forms := [6], masked := false, mods := m }
def shapeLayout : VShape := { forms := [6], vd := false, vs1 := false, xs := true, masked := false }
def shapePanes (x : Bool) : VShape := { forms := [5], vd := false, vs1 := false, xs := x, rows := true, masked := false }
def shapeHfset : VShape := { forms := [7], vd := false, vs1 := false, xs := true, masked := false }
def shapeHcode : VShape := { forms := [7], vs1 := false, masked := false, mods := 0xFC0000, bad := fun v => 48 ≤ v.hPane }
def shapeHprobe : VShape := { forms := [7], vs2 := VArgs.newc, xs := true, mods := 0x80003F, bad := fun v => 12 ≤ v.kd }
def shapeHins : VShape :=
  { forms := [7], vs2 := second, xs := true, mods := 0x3F0000, bad := fun v => badMask VArgs.vd v || 48 ≤ v.ve }
def shapeHdel : VShape := { forms := [7], vs2 := second, xs := true, bad := badMask VArgs.vd }
def shapeHrehash : VShape :=
  { forms := [7], vd := false, vs1 := false, xs := true, hr := false, masked := false, mods := 0xFFFF,
    bad := fun v => v.modHS % 2 ^ 16 == 0 }
def shapeHfence : VShape :=
  { forms := [7], vd := false, vs1 := false, hr := false, masked := false, mods := 7, bad := fun v => 6 ≤ v.modHS }
def shapeHstat : VShape := { forms := [7], vs1 := false, xs := true, hr := false, masked := false }

/-- A row of Table 3.3. -/
structure VecRow where
  ctor  : VArgs → Instr
  shape : VShape

/-- Rows of VALU-A and VALU-B (Table 3.3). -/
def valuRow : Nat → Option VecRow
  | 0x00 => some { ctor := .vadd, shape := shapeInt }
  | 0x01 => some { ctor := .vsub, shape := shapeInt }
  | 0x02 => some { ctor := .vrsub, shape := shapeXI }
  | 0x03 => some { ctor := .vand, shape := shapeInt }
  | 0x04 => some { ctor := .vor, shape := shapeInt }
  | 0x05 => some { ctor := .vxor, shape := shapeInt }
  | 0x06 => some { ctor := .vsll, shape := shapeInt }
  | 0x07 => some { ctor := .vsrl, shape := shapeInt }
  | 0x08 => some { ctor := .vsra, shape := shapeInt }
  | 0x09 => some { ctor := .vmin, shape := shapeInt }
  | 0x0A => some { ctor := .vmax, shape := shapeInt }
  | 0x0B => some { ctor := .vminu, shape := shapeInt }
  | 0x0C => some { ctor := .vmaxu, shape := shapeInt }
  | 0x0D => some { ctor := .vadds, shape := shapeInt }
  | 0x0E => some { ctor := .vsubs, shape := shapeInt }
  | 0x0F => some { ctor := .vaddus, shape := shapeInt }
  | 0x10 => some { ctor := .vmul, shape := shapeInt }
  | 0x11 => some { ctor := .vmulh, shape := shapeInt }
  | 0x12 => some { ctor := .vmulhu, shape := shapeInt }
  | 0x13 => some { ctor := .vmacc, shape := shapeInt }
  | 0x14 => some { ctor := .vwiden, shape := shapeOne 0 }
  | 0x15 => some { ctor := .vnarrow, shape := shapeOne 1 }
  | 0x16 => some { ctor := .vmerge, shape := shapeInt }
  | 0x17 => some { ctor := .vmv, shape := shapeOne 0 }
  | 0x18 => some { ctor := .vcmpeq, shape := shapeCmp }
  | 0x19 => some { ctor := .vcmpne, shape := shapeCmp }
  | 0x1A => some { ctor := .vcmplt, shape := shapeCmp }
  | 0x1B => some { ctor := .vcmpltu, shape := shapeCmp }
  | 0x1C => some { ctor := .vcmple, shape := shapeCmp }
  | 0x1D => some { ctor := .vcmpleu, shape := shapeCmp }
  | 0x1E => some { ctor := .vcmpgt, shape := shapeCmpXI }
  | 0x20 => some { ctor := .vfadd, shape := shapeFp 0 }
  | 0x21 => some { ctor := .vfsub, shape := shapeFp 0 }
  | 0x22 => some { ctor := .vfmul, shape := shapeFp 0 }
  | 0x23 => some { ctor := .vfdiv, shape := shapeFp 0 }
  | 0x24 => some { ctor := .vfsqrt, shape := shapeOne 0 }
  | 0x25 => some { ctor := .vfma, shape := shapeFp 0 }
  | 0x26 => some { ctor := .vfms, shape := shapeFp 0 }
  | 0x27 => some { ctor := .vfnma, shape := shapeFp 0 }
  | 0x28 => some { ctor := .vfmin, shape := shapeFp 0 }
  | 0x29 => some { ctor := .vfmax, shape := shapeFp 0 }
  | 0x2A => some { ctor := .vfsgn, shape := shapeSgn }
  | 0x2B => some { ctor := .vfcmpeq, shape := shapeFpCmp }
  | 0x2C => some { ctor := .vfcmplt, shape := shapeFpCmp }
  | 0x2D => some { ctor := .vfcmple, shape := shapeFpCmp }
  | 0x2E => some { ctor := .vfclass, shape := shapeOne 0 }
  | 0x2F => some { ctor := .vfcvt, shape := shapeCvt }
  | 0x30 => some { ctor := .vbscale, shape := shapeScale }
  | 0x31 => some { ctor := .vbquant, shape := shapeBlock }
  | 0x32 => some { ctor := .vbdeq, shape := shapeBlock }
  | 0x33 => some { ctor := .vid, shape := shapeId }
  | _ => none

/-- Rows of the VLSU (Table 3.3). -/
def vlsuRow : Nat → Option VecRow
  | 0x00 => some { ctor := .vld, shape := shapeMem }
  | 0x01 => some { ctor := .vlds, shape := shapeStrided }
  | 0x02 => some { ctor := .vldx, shape := shapeIndexed }
  | 0x03 => some { ctor := .vst, shape := shapeMem }
  | 0x04 => some { ctor := .vsts, shape := shapeStrided }
  | 0x05 => some { ctor := .vstx, shape := shapeIndexed }
  | 0x06 => some { ctor := .vsxadd, shape := shapeIndexed }
  | 0x07 => some { ctor := .vamoadd, shape := shapeIndexed }
  | 0x08 => some { ctor := .vamomin, shape := shapeIndexed }
  | 0x09 => some { ctor := .vamomax, shape := shapeIndexed }
  | 0x0A => some { ctor := .vldk, shape := shapeMaskMem }
  | 0x0B => some { ctor := .vstk, shape := shapeMaskMem }
  | _ => none

/-- Rows of VPERM (Table 3.3). -/
def vpermRow : Nat → Option VecRow
  | 0x00 => some { ctor := .vslup, shape := shapeSlide }
  | 0x01 => some { ctor := .vsldn, shape := shapeSlide }
  | 0x02 => some { ctor := .vperm, shape := shapeTwo }
  | 0x03 => some { ctor := .vcompress, shape := shapeOne 0 }
  | 0x04 => some { ctor := .vexpand, shape := shapeOne 0 }
  | 0x05 => some { ctor := .vredsum, shape := shapeTwo }
  | 0x06 => some { ctor := .vredmin, shape := shapeTwo }
  | 0x07 => some { ctor := .vredmax, shape := shapeTwo }
  | 0x08 => some { ctor := .vfredo, shape := shapeTwo }
  | 0x09 => some { ctor := .vfredt, shape := shapeTwo }
  | 0x0A => some { ctor := .vfredmin, shape := shapeTwo }
  | 0x0B => some { ctor := .vfredmax, shape := shapeTwo }
  | 0x0C => some { ctor := .vmvxs, shape := shapeMvxs }
  | 0x0D => some { ctor := .vmvsx, shape := shapeMvsx }
  | 0x0E => some { ctor := .viota, shape := shapeIota }
  | 0x10 => some { ctor := .kand, shape := shapeMask2 }
  | 0x11 => some { ctor := .kor, shape := shapeMask2 }
  | 0x12 => some { ctor := .kxor, shape := shapeMask2 }
  | 0x13 => some { ctor := .kandn, shape := shapeMask2 }
  | 0x14 => some { ctor := .knot, shape := shapeMask1 }
  | 0x15 => some { ctor := .kpopc, shape := shapeQuery }
  | 0x16 => some { ctor := .kfirst, shape := shapeQuery }
  | 0x17 => some { ctor := .ksetn, shape := shapeSetn }
  | 0x18 => some { ctor := .kmv, shape := shapeMask1 }
  | _ => none

/-- Rows of MTX (Table 3.3). -/
def mtxRow : Nat → Option VecRow
  | 0x00 => some { ctor := .mma, shape := shapeMma }
  | 0x02 => some { ctor := .mconv, shape := shapeMconv }
  | 0x03 => some { ctor := .mzero, shape := shapeMzero }
  | 0x04 => some { ctor := .mrdrow, shape := shapeRow }
  | 0x05 => some { ctor := .mwrrow, shape := shapeRow }
  | 0x10 => some { ctor := .vpconv, shape := shapeConv }
  | 0x11 => some { ctor := .vpconva, shape := shapeConv }
  | 0x12 => some { ctor := .vpack, shape := shapePack 3 }
  | 0x13 => some { ctor := .vfext, shape := shapePack 0 }
  | 0x20 => some { ctor := .flset, shape := shapeLayout }
  | 0x21 => some { ctor := .flget, shape := shapeLayout }
  | 0x28 => some { ctor := .pclaim, shape := shapePanes true }
  | 0x29 => some { ctor := .pfree, shape := shapePanes false }
  | _ => none

/-- Rows of HASH (Table 3.3). -/
def hashRow : Nat → Option VecRow
  | 0x00 => some { ctor := .hfset, shape := shapeHfset }
  | 0x01 => some { ctor := .hcode, shape := shapeHcode }
  | 0x02 => some { ctor := .hprobe, shape := shapeHprobe }
  | 0x03 => some { ctor := .hins, shape := shapeHins }
  | 0x04 => some { ctor := .hdel, shape := shapeHdel }
  | 0x05 => some { ctor := .hrehash, shape := shapeHrehash }
  | 0x06 => some { ctor := .hfence, shape := shapeHfence }
  | 0x07 => some { ctor := .hstat, shape := shapeHstat }
  | _ => none

/-- The row of an op7 value for the unit a slot names (Table 2.3, R19). -/
def vecRow (unit op : Nat) : Option VecRow :=
  match unit with
  | 0 => valuRow op
  | 1 => valuRow op
  | 2 => vlsuRow op
  | 3 => vpermRow op
  | 4 => mtxRow op
  | 5 => hashRow op
  | _ => none

/-- Step 6 of Table 2.6 on one word under its unit: is it refused with ENC? -/
def encFault (unit : Nat) (w : Word) : Bool :=
  let v := vargsOf w
  v.encFault || (match vecRow unit (op7Of w) with | some r => r.shape.bankFault v | none => false)

/-- The instruction that a vector word is under its unit; none where step 7 of Table 2.6 refuses it with ILL. -/
def vecInstr (unit : Nat) (w : Word) : Option Instr :=
  match vecRow unit (op7Of w) with
  | some r => if r.shape.accepts (vargsOf w) then some (r.ctor (vargsOf w)) else none
  | none => none

/-- Step 6 on the words of a convoy: the lowest slot that it refuses. -/
def firstEnc : Nat → List Nat → List Word → Option Nat
  | i, u :: us, w :: ws => if encFault u w then some i else firstEnc (i + 1) us ws
  | _, _, _ => none

/-- Step 7 on the words of a convoy: its instructions, or the lowest slot that it refuses. -/
def vecInstrs : Nat → List Nat → List Word → Except Nat (List Instr)
  | i, u :: us, w :: ws =>
    match vecInstr u w with
    | none => .error i
    | some a => match vecInstrs (i + 1) us ws with
      | .error j => .error j
      | .ok l => .ok (a :: l)
  | _, _, _ => .ok []

/-! ### Bytes (R14, R15) -/

/-- The little-endian word of four bytes. -/
def word32 (b0 b1 b2 b3 : Byte) : Word32 := b3 ++ b2 ++ b1 ++ b0

/-- `n` vector words from the front of a list of bytes. -/
def takeWords : Nat → List Byte → Option (List Word × List Byte)
  | 0, bs => some ([], bs)
  | n + 1, b0 :: b1 :: b2 :: b3 :: b4 :: b5 :: b6 :: b7 :: bs =>
    match takeWords n bs with
    | some (ws, r) => some ((word32 b4 b5 b6 b7 ++ word32 b0 b1 b2 b3) :: ws, r)
    | none => none
  | _, _ => none

/-- The instruction at the front of a list of bytes, and the bytes after it; none where the list ends within it. -/
def decode : List Byte → Option (Instr × List Byte)
  | b0 :: b1 :: b2 :: b3 :: bs =>
    match decodeWord (word32 b0 b1 b2 b3) with
    | .convoy h _ =>
      if h.ok then (takeWords h.count bs).map (fun p => (.convoy h p.1, p.2)) else some (.convoy h [], bs)
    | i => some (i, bs)
  | _ => none

/-- The `n` bytes of a number, little-endian. -/
def bytesOf : Nat → Nat → List Byte
  | 0, _ => []
  | n + 1, w => BitVec.ofNat 8 w :: bytesOf n (w / 256)

/-- The instruction of an opcode-table word: `w` in its first bytes, zeros after it, up to a convoy of six. -/
def decodeTableWord (_nbits w : Nat) : Option Instr := (decode (bytesOf 52 w)).map (·.1)

/-! ### Encoding, from the same tables -/

def packW3 (xd xa xb : XReg) (fn : BitVec 7) : Word32 := 0x0#4 ++ xd ++ xa ++ xb ++ fn ++ 0#6
def packWI (xd xa : XReg) (fn : BitVec 4) (imm : BitVec 14) : Word32 := 0x1#4 ++ xd ++ xa ++ fn ++ imm
def packOff (major : BitVec 4) (xd xa : XReg) (fn : BitVec 3) (off : BitVec 15) : Word32 := major ++ xd ++ xa ++ fn ++ off
def packWA (xd xa xb : XReg) (op : BitVec 4) (z : AmoSize) (o : AmoOrder) (p : Scope) : Word32 :=
  0x9#4 ++ xd ++ xa ++ xb ++ op ++ z.code ++ o.code ++ p.code ++ 0#2
def packCsr (fn : BitVec 4) (xd xa : XReg) (csr : BitVec 12) : Word32 := 0xA#4 ++ fn ++ xd ++ xa ++ csr ++ 0#2
def packWY (fn : BitVec 4) (xd xa : XReg) (sub : BitVec 14) : Word32 := 0xA#4 ++ fn ++ xd ++ xa ++ sub
def packWP (kind : BitVec 2) (xa : XReg) (stages : BitVec 3) (rot farm : Bool) (len : BitVec 16) : Word32 :=
  0xB#4 ++ kind ++ xa ++ stages ++ BitVec.ofBool rot ++ BitVec.ofBool farm ++ len
def packLctl (fn : BitVec 4) (sub : BitVec 22) : Word32 := 0xB#4 ++ 2#2 ++ fn ++ sub
def packWQ (fn : BitVec 5) (q : WqArgs) : Word32 := 0xC#4 ++ fn ++ q.qn ++ q.tn ++ q.xa ++ q.xb ++ q.mode
def packField (fn : BitVec 3) (xd xa : XReg) (pos len : BitVec 6) : Word32 := 0xD#4 ++ fn ++ xd ++ xa ++ pos ++ len ++ 0#3
def packFunnel (fn : BitVec 3) (xd xa xb : XReg) (shift : BitVec 6) : Word32 :=
  0xD#4 ++ fn ++ xd ++ xa ++ xb ++ shift ++ 0#4
def packHeader (h : ConvoyHeader) : Word32 :=
  0xF#4 ++ h.nMinus1 ++ BitVec.ofBool h.stg ++ h.stage ++ h.slot0 ++ h.slot1 ++ h.slot2 ++ h.slot3 ++ h.slot4 ++ h.slot5
    ++ BitVec.ofBool h.long ++ h.pri

/-- The first word of an instruction that has words; none for a vector instruction (`encodeVec`) and for an event. -/
def encodeWord : Instr → Option Word32
  | .add xd xa xb => some (packW3 xd xa xb 0x00)
  | .sub xd xa xb => some (packW3 xd xa xb 0x01)
  | .and xd xa xb => some (packW3 xd xa xb 0x02)
  | .or xd xa xb => some (packW3 xd xa xb 0x03)
  | .xor xd xa xb => some (packW3 xd xa xb 0x04)
  | .sll xd xa xb => some (packW3 xd xa xb 0x05)
  | .srl xd xa xb => some (packW3 xd xa xb 0x06)
  | .sra xd xa xb => some (packW3 xd xa xb 0x07)
  | .slt xd xa xb => some (packW3 xd xa xb 0x08)
  | .sltu xd xa xb => some (packW3 xd xa xb 0x09)
  | .min xd xa xb => some (packW3 xd xa xb 0x0A)
  | .max xd xa xb => some (packW3 xd xa xb 0x0B)
  | .minu xd xa xb => some (packW3 xd xa xb 0x0C)
  | .maxu xd xa xb => some (packW3 xd xa xb 0x0D)
  | .andn xd xa xb => some (packW3 xd xa xb 0x0E)
  | .mul xd xa xb => some (packW3 xd xa xb 0x10)
  | .mulh xd xa xb => some (packW3 xd xa xb 0x11)
  | .mulhu xd xa xb => some (packW3 xd xa xb 0x12)
  | .div xd xa xb => some (packW3 xd xa xb 0x13)
  | .divu xd xa xb => some (packW3 xd xa xb 0x14)
  | .rem xd xa xb => some (packW3 xd xa xb 0x15)
  | .remu xd xa xb => some (packW3 xd xa xb 0x16)
  | .clz xd xa => some (packW3 xd xa 0 0x18)
  | .ctz xd xa => some (packW3 xd xa 0 0x19)
  | .popc xd xa => some (packW3 xd xa 0 0x1A)
  | .vsetvl xd xa xb => some (packW3 xd xa xb 0x20)
  | .addi xd xa imm => some (packWI xd xa 0 imm)
  | .andi xd xa imm => some (packWI xd xa 1 imm)
  | .ori xd xa imm => some (packWI xd xa 2 imm)
  | .xori xd xa imm => some (packWI xd xa 3 imm)
  | .slti xd xa imm => some (packWI xd xa 4 imm)
  | .sltiu xd xa imm => some (packWI xd xa 5 imm)
  | .slli xd xa n => some (packWI xd xa 6 (0#8 ++ n))
  | .srli xd xa n => some (packWI xd xa 7 (0#8 ++ n))
  | .srai xd xa n => some (packWI xd xa 8 (0#8 ++ n))
  | .ldb xd xa off => some (packOff 0x2 xd xa 0 off)
  | .ldh xd xa off => some (packOff 0x2 xd xa 1 off)
  | .ldw xd xa off => some (packOff 0x2 xd xa 2 off)
  | .ldd xd xa off => some (packOff 0x2 xd xa 3 off)
  | .ldbu xd xa off => some (packOff 0x2 xd xa 4 off)
  | .ldhu xd xa off => some (packOff 0x2 xd xa 5 off)
  | .ldwu xd xa off => some (packOff 0x2 xd xa 6 off)
  | .stb xs xa off => some (packOff 0x3 xs xa 0 off)
  | .sth xs xa off => some (packOff 0x3 xs xa 1 off)
  | .stw xs xa off => some (packOff 0x3 xs xa 2 off)
  | .std xs xa off => some (packOff 0x3 xs xa 3 off)
  | .beq xa xb off => some (packOff 0x4 xa xb 0 off)
  | .bne xa xb off => some (packOff 0x4 xa xb 1 off)
  | .blt xa xb off => some (packOff 0x4 xa xb 2 off)
  | .bge xa xb off => some (packOff 0x4 xa xb 3 off)
  | .bltu xa xb off => some (packOff 0x4 xa xb 4 off)
  | .bgeu xa xb off => some (packOff 0x4 xa xb 5 off)
  | .jal xd off => some (0x5#4 ++ xd ++ off)
  | .jalr xd xa off => some (0x6#4 ++ xd ++ xa ++ off)
  | .lui xd imm => some (0x7#4 ++ xd ++ imm)
  | .addpc xd imm => some (0x8#4 ++ xd ++ imm)
  | .amoswap xd xa xb z o p => some (packWA xd xa xb 0 z o p)
  | .amoadd xd xa xb z o p => some (packWA xd xa xb 1 z o p)
  | .amoand xd xa xb z o p => some (packWA xd xa xb 2 z o p)
  | .amoor xd xa xb z o p => some (packWA xd xa xb 3 z o p)
  | .amoxor xd xa xb z o p => some (packWA xd xa xb 4 z o p)
  | .amomin xd xa xb z o p => some (packWA xd xa xb 5 z o p)
  | .amomax xd xa xb z o p => some (packWA xd xa xb 6 z o p)
  | .amominu xd xa xb z o p => some (packWA xd xa xb 7 z o p)
  | .amomaxu xd xa xb z o p => some (packWA xd xa xb 8 z o p)
  | .amocas xd xa xb z o p => some (packWA xd xa xb 9 z o p)
  | .csrrw xd xa csr => some (packCsr 0 xd xa csr)
  | .csrrs xd xa csr => some (packCsr 1 xd xa csr)
  | .csrrc xd xa csr => some (packCsr 2 xd xa csr)
  | .csrrwi xd uimm csr => some (packCsr 3 xd uimm csr)
  | .trap code => some (packWY 4 0 0 code)
  | .eret => some (packWY 5 0 0 0)
  | .fence k p => some (packWY 6 0 0 (k.code ++ p.code ++ 0#8))
  | .bar xa p => some (packWY 7 0 xa (0#3 ++ p.code ++ 0#8))
  | .wfe xa => some (packWY 8 0 xa 0)
  | .yield => some (packWY 9 0 0 0)
  | .snap => some (packWY 10 0 0 0)
  | .brk => some (packWY 11 0 0 0)
  | .ifence => some (packWY 12 0 0 0)
  | .loop xa n rot len => some (packWP 0 xa n rot false len)
  | .loops xa n rot farm len => some (packWP 1 xa n rot farm len)
  | .lexit kn => some (packLctl 0 (kn ++ 0#18))
  | .lbrk lv off => some (packLctl 1 (lv ++ 0#4 ++ off))
  | .lpop lv => some (packLctl 2 (lv ++ 0#20))
  | .qld q => some (packWQ 0x00 q)
  | .qst q => some (packWQ 0x01 q)
  | .qred q => some (packWQ 0x02 q)
  | .qfold q => some (packWQ 0x03 q)
  | .qnvm q => some (packWQ 0x04 q)
  | .qwait q => some (packWQ 0x05 q)
  | .qavail q => some (packWQ 0x06 q)
  | .qclose q => some (packWQ 0x07 q)
  | .qsave q => some (packWQ 0x08 q)
  | .qrest q => some (packWQ 0x09 q)
  | .talloc q => some (packWQ 0x10 q)
  | .tfree q => some (packWQ 0x11 q)
  | .tstat q => some (packWQ 0x12 q)
  | .tset q => some (packWQ 0x13 q)
  | .tred q => some (packWQ 0x14 q)
  | .vsetvli xd xa sew fmt blk rm => some (0xC#4 ++ 0x18#5 ++ sew ++ fmt ++ blk ++ 0#1 ++ xa ++ xd ++ rm ++ 0#1)
  | .bext xd xa pos len => some (packField 0 xd xa pos len)
  | .bextu xd xa pos len => some (packField 1 xd xa pos len)
  | .bins xd xa pos len => some (packField 2 xd xa pos len)
  | .fshl xd xa xb n => some (packFunnel 3 xd xa xb n)
  | .fshr xd xa xb n => some (packFunnel 4 xd xa xb n)
  | .bextv xd xa xb => some (0xD#4 ++ 5#3 ++ xd ++ xa ++ xb ++ 0#10)
  | .convoy h _ => some (packHeader h)
  | .nonInstructionEncoding w => some w
  | _ => none

/-- The bytes of an instruction that has words. -/
def encode (i : Instr) : Option (List Byte) :=
  match encodeWord i with
  | none => none
  | some w => match i with
    | .convoy _ ws => some (bytesOf 4 w.toNat ++ ws.flatMap (fun v => bytesOf 8 v.toNat))
    | _ => some (bytesOf 4 w.toNat)

/-- A vector word from op7 and its fields (Table 2.4). -/
def packVec (op : BitVec 7) (v : VArgs) : Word :=
  op ++ v.vd ++ v.vs1 ++ v.vs2 ++ v.km ++ BitVec.ofBool v.kinv ++ v.form ++ v.xs ++ v.ext

/-- Unit, op7 and fields of a vector instruction (Table 3.3); the unit of a VALU instruction is VALU-A. -/
def vecCode : Instr → Option (Nat × Nat × VArgs)
  | .vadd v => some (0, 0x00, v)
  | .vsub v => some (0, 0x01, v)
  | .vrsub v => some (0, 0x02, v)
  | .vand v => some (0, 0x03, v)
  | .vor v => some (0, 0x04, v)
  | .vxor v => some (0, 0x05, v)
  | .vsll v => some (0, 0x06, v)
  | .vsrl v => some (0, 0x07, v)
  | .vsra v => some (0, 0x08, v)
  | .vmin v => some (0, 0x09, v)
  | .vmax v => some (0, 0x0A, v)
  | .vminu v => some (0, 0x0B, v)
  | .vmaxu v => some (0, 0x0C, v)
  | .vadds v => some (0, 0x0D, v)
  | .vsubs v => some (0, 0x0E, v)
  | .vaddus v => some (0, 0x0F, v)
  | .vmul v => some (0, 0x10, v)
  | .vmulh v => some (0, 0x11, v)
  | .vmulhu v => some (0, 0x12, v)
  | .vmacc v => some (0, 0x13, v)
  | .vwiden v => some (0, 0x14, v)
  | .vnarrow v => some (0, 0x15, v)
  | .vmerge v => some (0, 0x16, v)
  | .vmv v => some (0, 0x17, v)
  | .vcmpeq v => some (0, 0x18, v)
  | .vcmpne v => some (0, 0x19, v)
  | .vcmplt v => some (0, 0x1A, v)
  | .vcmpltu v => some (0, 0x1B, v)
  | .vcmple v => some (0, 0x1C, v)
  | .vcmpleu v => some (0, 0x1D, v)
  | .vcmpgt v => some (0, 0x1E, v)
  | .vfadd v => some (0, 0x20, v)
  | .vfsub v => some (0, 0x21, v)
  | .vfmul v => some (0, 0x22, v)
  | .vfdiv v => some (0, 0x23, v)
  | .vfsqrt v => some (0, 0x24, v)
  | .vfma v => some (0, 0x25, v)
  | .vfms v => some (0, 0x26, v)
  | .vfnma v => some (0, 0x27, v)
  | .vfmin v => some (0, 0x28, v)
  | .vfmax v => some (0, 0x29, v)
  | .vfsgn v => some (0, 0x2A, v)
  | .vfcmpeq v => some (0, 0x2B, v)
  | .vfcmplt v => some (0, 0x2C, v)
  | .vfcmple v => some (0, 0x2D, v)
  | .vfclass v => some (0, 0x2E, v)
  | .vfcvt v => some (0, 0x2F, v)
  | .vbscale v => some (0, 0x30, v)
  | .vbquant v => some (0, 0x31, v)
  | .vbdeq v => some (0, 0x32, v)
  | .vid v => some (0, 0x33, v)
  | .vslup v => some (3, 0x00, v)
  | .vsldn v => some (3, 0x01, v)
  | .vperm v => some (3, 0x02, v)
  | .vcompress v => some (3, 0x03, v)
  | .vexpand v => some (3, 0x04, v)
  | .vredsum v => some (3, 0x05, v)
  | .vredmin v => some (3, 0x06, v)
  | .vredmax v => some (3, 0x07, v)
  | .vfredo v => some (3, 0x08, v)
  | .vfredt v => some (3, 0x09, v)
  | .vfredmin v => some (3, 0x0A, v)
  | .vfredmax v => some (3, 0x0B, v)
  | .vmvxs v => some (3, 0x0C, v)
  | .vmvsx v => some (3, 0x0D, v)
  | .viota v => some (3, 0x0E, v)
  | .kand v => some (3, 0x10, v)
  | .kor v => some (3, 0x11, v)
  | .kxor v => some (3, 0x12, v)
  | .kandn v => some (3, 0x13, v)
  | .knot v => some (3, 0x14, v)
  | .kpopc v => some (3, 0x15, v)
  | .kfirst v => some (3, 0x16, v)
  | .ksetn v => some (3, 0x17, v)
  | .kmv v => some (3, 0x18, v)
  | .vld v => some (2, 0x00, v)
  | .vlds v => some (2, 0x01, v)
  | .vldx v => some (2, 0x02, v)
  | .vst v => some (2, 0x03, v)
  | .vsts v => some (2, 0x04, v)
  | .vstx v => some (2, 0x05, v)
  | .vsxadd v => some (2, 0x06, v)
  | .vamoadd v => some (2, 0x07, v)
  | .vamomin v => some (2, 0x08, v)
  | .vamomax v => some (2, 0x09, v)
  | .vldk v => some (2, 0x0A, v)
  | .vstk v => some (2, 0x0B, v)
  | .mma v => some (4, 0x00, v)
  | .mconv v => some (4, 0x02, v)
  | .mzero v => some (4, 0x03, v)
  | .mrdrow v => some (4, 0x04, v)
  | .mwrrow v => some (4, 0x05, v)
  | .vpconv v => some (4, 0x10, v)
  | .vpconva v => some (4, 0x11, v)
  | .vpack v => some (4, 0x12, v)
  | .vfext v => some (4, 0x13, v)
  | .flset v => some (4, 0x20, v)
  | .flget v => some (4, 0x21, v)
  | .pclaim v => some (4, 0x28, v)
  | .pfree v => some (4, 0x29, v)
  | .hfset v => some (5, 0x00, v)
  | .hcode v => some (5, 0x01, v)
  | .hprobe v => some (5, 0x02, v)
  | .hins v => some (5, 0x03, v)
  | .hdel v => some (5, 0x04, v)
  | .hrehash v => some (5, 0x05, v)
  | .hfence v => some (5, 0x06, v)
  | .hstat v => some (5, 0x07, v)
  | _ => none

/-- Unit code and word of a vector instruction. -/
def encodeVec (i : Instr) : Option (Nat × Word) :=
  (vecCode i).map (fun c => (c.1, packVec (BitVec.ofNat 7 c.2.1) c.2.2))

/-- The step of Table 2.6 that refuses a vector instruction standing in its word: ENC (true), ILL (false), or none. -/
def vecFault (i : Instr) : Option Bool :=
  match encodeVec i with
  | none => none
  | some (u, w) => if encFault u w then some true else if (vecInstr u w).isNone then some false else none

end Sys2Proof
end

