-- ==== Sys2Proof/Machine/Scalar.lean ====
section
/-!
DEFINITION. Sys2Proof/Machine/Scalar.lean: W3, WI, WF, LUI, ADDPC, branches and jumps (R76 to R81, R85 to R87, R153 of
spec/05_scalar.md and spec/08_loop_control.md).
-/
namespace Sys2Proof.Machine

/-- Write a result and go on at the next word. -/
def State.result (s : State) (xd : XReg) (v : Word) : Out := .next (s.setX xd v).advance

/-- A truth value as a word. -/
def boolWord (b : Bool) : Word := if b then 1 else 0

/-! ### Values (R76) -/

/-- Shift amount X[xb][5:0]. -/
def shiftAmount (b : Word) : Nat := b.toNat % 64

def divSigned (a b : Word) : Word := if b = 0 then BitVec.allOnes 64 else a.sdiv b
def divUnsigned (a b : Word) : Word := if b = 0 then BitVec.allOnes 64 else a / b
def remSigned (a b : Word) : Word := if b = 0 then a else a.srem b
def remUnsigned (a b : Word) : Word := if b = 0 then a else a % b
def mulHighSigned (a b : Word) : Word := BitVec.ofInt 64 (a.toInt * b.toInt / 2 ^ 64)
def mulHighUnsigned (a b : Word) : Word := BitVec.ofNat 64 (a.toNat * b.toNat / 2 ^ 64)
def minSigned (a b : Word) : Word := if a.slt b then a else b
def maxSigned (a b : Word) : Word := if a.slt b then b else a
def minUnsigned (a b : Word) : Word := if a.ult b then a else b
def maxUnsigned (a b : Word) : Word := if a.ult b then b else a

/-! ### W3 (R76) -/

def execAdd (xd xa xb : XReg) (s : State) : Out := s.result xd (s.h.rx xa + s.h.rx xb)
def execSub (xd xa xb : XReg) (s : State) : Out := s.result xd (s.h.rx xa - s.h.rx xb)
def execAnd (xd xa xb : XReg) (s : State) : Out := s.result xd (s.h.rx xa &&& s.h.rx xb)
def execOr (xd xa xb : XReg) (s : State) : Out := s.result xd (s.h.rx xa ||| s.h.rx xb)
def execXor (xd xa xb : XReg) (s : State) : Out := s.result xd (s.h.rx xa ^^^ s.h.rx xb)
def execSll (xd xa xb : XReg) (s : State) : Out := s.result xd (s.h.rx xa <<< shiftAmount (s.h.rx xb))
def execSrl (xd xa xb : XReg) (s : State) : Out := s.result xd (s.h.rx xa >>> shiftAmount (s.h.rx xb))
def execSra (xd xa xb : XReg) (s : State) : Out := s.result xd ((s.h.rx xa).sshiftRight (shiftAmount (s.h.rx xb)))
def execSlt (xd xa xb : XReg) (s : State) : Out := s.result xd (boolWord ((s.h.rx xa).slt (s.h.rx xb)))
def execSltu (xd xa xb : XReg) (s : State) : Out := s.result xd (boolWord ((s.h.rx xa).ult (s.h.rx xb)))
def execMin (xd xa xb : XReg) (s : State) : Out := s.result xd (minSigned (s.h.rx xa) (s.h.rx xb))
def execMax (xd xa xb : XReg) (s : State) : Out := s.result xd (maxSigned (s.h.rx xa) (s.h.rx xb))
def execMinu (xd xa xb : XReg) (s : State) : Out := s.result xd (minUnsigned (s.h.rx xa) (s.h.rx xb))
def execMaxu (xd xa xb : XReg) (s : State) : Out := s.result xd (maxUnsigned (s.h.rx xa) (s.h.rx xb))
def execAndn (xd xa xb : XReg) (s : State) : Out := s.result xd (s.h.rx xa &&& ~~~ s.h.rx xb)
def execMul (xd xa xb : XReg) (s : State) : Out := s.result xd (s.h.rx xa * s.h.rx xb)
def execMulh (xd xa xb : XReg) (s : State) : Out := s.result xd (mulHighSigned (s.h.rx xa) (s.h.rx xb))
def execMulhu (xd xa xb : XReg) (s : State) : Out := s.result xd (mulHighUnsigned (s.h.rx xa) (s.h.rx xb))
def execDiv (xd xa xb : XReg) (s : State) : Out := s.result xd (divSigned (s.h.rx xa) (s.h.rx xb))
def execDivu (xd xa xb : XReg) (s : State) : Out := s.result xd (divUnsigned (s.h.rx xa) (s.h.rx xb))
def execRem (xd xa xb : XReg) (s : State) : Out := s.result xd (remSigned (s.h.rx xa) (s.h.rx xb))
def execRemu (xd xa xb : XReg) (s : State) : Out := s.result xd (remUnsigned (s.h.rx xa) (s.h.rx xb))
def execClz (xd xa : XReg) (s : State) : Out := s.result xd (BitVec.ofNat 64 (countLeading 64 (s.h.rx xa).toNat))
def execCtz (xd xa : XReg) (s : State) : Out := s.result xd (BitVec.ofNat 64 (countTrailing 64 (s.h.rx xa).toNat))
def execPopc (xd xa : XReg) (s : State) : Out := s.result xd (BitVec.ofNat 64 (popcount 64 (s.h.rx xa).toNat))

/-! ### WI (R77) -/

def execAddi (xd xa : XReg) (imm : BitVec 14) (s : State) : Out := s.result xd (s.h.rx xa + immWI imm)
def execAndi (xd xa : XReg) (imm : BitVec 14) (s : State) : Out := s.result xd (s.h.rx xa &&& immWI imm)
def execOri (xd xa : XReg) (imm : BitVec 14) (s : State) : Out := s.result xd (s.h.rx xa ||| immWI imm)
def execXori (xd xa : XReg) (imm : BitVec 14) (s : State) : Out := s.result xd (s.h.rx xa ^^^ immWI imm)
def execSlti (xd xa : XReg) (imm : BitVec 14) (s : State) : Out := s.result xd (boolWord ((s.h.rx xa).slt (immWI imm)))
def execSltiu (xd xa : XReg) (imm : BitVec 14) (s : State) : Out := s.result xd (boolWord ((s.h.rx xa).ult (immWI imm)))
def execSlli (xd xa : XReg) (shift : BitVec 6) (s : State) : Out := s.result xd (s.h.rx xa <<< shift.toNat)
def execSrli (xd xa : XReg) (shift : BitVec 6) (s : State) : Out := s.result xd (s.h.rx xa >>> shift.toNat)
def execSrai (xd xa : XReg) (shift : BitVec 6) (s : State) : Out := s.result xd ((s.h.rx xa).sshiftRight shift.toNat)

/-! ### Upper immediates (R78) -/

def execLui (xd : XReg) (imm : BitVec 23) (s : State) : Out := s.result xd (immUpper imm)
def execAddpc (xd : XReg) (imm : BitVec 23) (s : State) : Out := s.result xd (s.h.pc + immUpper imm)

/-! ### Bit fields and funnel shifts (R79 to R81) -/

/-- A refusal with ILL of a scalar word (R29): EVAL is its own address. -/
def State.illegal (s : State) : Out := s.trapped .ill s.h.pc

/-- Are pos and len in range (R79)? -/
def bitFieldOk (pos len : BitVec 6) : Bool := len.toNat != 0 && pos.toNat + len.toNat ≤ 64

/-- The mask m of R79. -/
def bitFieldMask (pos len : BitVec 6) : Word := BitVec.ofNat 64 ((2 ^ len.toNat - 1) * 2 ^ pos.toNat)

/-- The field of X[xa], zero-extended (R79). -/
def bitFieldGet (a : Word) (pos len : BitVec 6) : Word := (a &&& bitFieldMask pos len) >>> pos.toNat

def execBext (xd xa : XReg) (pos len : BitVec 6) (s : State) : Out :=
  if bitFieldOk pos len then
    s.result xd (BitVec.ofInt 64 (toSigned len.toNat (bitFieldGet (s.h.rx xa) pos len).toNat))
  else s.illegal
def execBextu (xd xa : XReg) (pos len : BitVec 6) (s : State) : Out :=
  if bitFieldOk pos len then s.result xd (bitFieldGet (s.h.rx xa) pos len) else s.illegal
def execBins (xd xa : XReg) (pos len : BitVec 6) (s : State) : Out :=
  if bitFieldOk pos len then
    let m := bitFieldMask pos len
    s.result xd ((s.h.rx xd &&& ~~~ m) ||| ((s.h.rx xa <<< pos.toNat) &&& m))
  else s.illegal
def execFshl (xd xa xb : XReg) (shift : BitVec 6) (s : State) : Out :=
  s.result xd ((((s.h.rx xa) ++ (s.h.rx xb) : BitVec 128) <<< shift.toNat).extractLsb' 64 64)
def execFshr (xd xa xb : XReg) (shift : BitVec 6) (s : State) : Out :=
  s.result xd ((((s.h.rx xa) ++ (s.h.rx xb) : BitVec 128) >>> shift.toNat).extractLsb' 0 64)
def execBextv (xd xa xb : XReg) (s : State) : Out :=
  let b := s.h.rx xb
  s.result xd (BitVec.ofNat 64 (field (s.h.rx xa) (field b 0 6) (field b 8 6)))

/-! ### Branches and jumps (R85 to R87, R149, R153) -/

/-- Take a branch or a jump that is neither a call nor a return: LESC when it would leave a body (R153). -/
def State.take (s : State) (t : Word) : Out :=
  if s.h.loops.targetOk t then .next (s.jumpTo t) else s.trapped .lesc 0

/-- A conditional branch (R85). -/
def State.branch (s : State) (c : Bool) (off : BitVec 15) : Out :=
  if c then s.take (s.h.pc + offBranch off) else .next s.advance

def execBeq (xa xb : XReg) (off : BitVec 15) (s : State) : Out := s.branch (s.h.rx xa == s.h.rx xb) off
def execBne (xa xb : XReg) (off : BitVec 15) (s : State) : Out := s.branch (s.h.rx xa != s.h.rx xb) off
def execBlt (xa xb : XReg) (off : BitVec 15) (s : State) : Out := s.branch ((s.h.rx xa).slt (s.h.rx xb)) off
def execBge (xa xb : XReg) (off : BitVec 15) (s : State) : Out := s.branch (!(s.h.rx xa).slt (s.h.rx xb)) off
def execBltu (xa xb : XReg) (off : BitVec 15) (s : State) : Out := s.branch ((s.h.rx xa).ult (s.h.rx xb)) off
def execBgeu (xa xb : XReg) (off : BitVec 15) (s : State) : Out := s.branch (!(s.h.rx xa).ult (s.h.rx xb)) off

/-- Set CDEPTH. -/
def State.setDepth (s : State) (d : BitVec 8) : State := s.mapH (fun h => { h with loops := { h.loops with cdepth := d } })

/-- A call (R87): no check of R153 and no back edge. -/
def State.call (s : State) (t : Word) : State := (s.setDepth (s.h.loops.cdepth + 1)).mapH (fun h => { h with pc := t })

/-- JAL (R86); with xd = x1 a call (R87). -/
def execJal (xd : XReg) (off : BitVec 23) (s : State) : Out :=
  let t := s.h.pc + offJal off
  if xd = 1 then .next ((s.setX xd (s.h.pc + 4)).call t)
  else if s.h.loops.targetOk t then .next ((s.setX xd (s.h.pc + 4)).jumpTo t)
  else s.trapped .lesc 0

/-- JALR (R86); the exact word jalr x0, x1, 0 is a return (R87). -/
def execJalr (xd xa : XReg) (off : BitVec 18) (s : State) : Out :=
  let t := s.h.rx xa + offJalr off
  if t.toNat % 4 ≠ 0 then s.trapped .align t
  else if xd = 0 ∧ xa = 1 ∧ off = 0 then
    if s.h.loops.here.isEmpty then .next ((s.setDepth (s.h.loops.cdepth - 1)).jumpTo t) else s.trapped .lesc 0
  else if s.h.loops.targetOk t then .next ((s.setX xd (s.h.pc + 4)).jumpTo t)
  else s.trapped .lesc 0

end Sys2Proof.Machine
end

