-- ==== Sys2Proof/Machine/LoadStore.lean ====
section
/-!
DEFINITION. Sys2Proof/Machine/LoadStore.lean: scalar loads, stores and atomics (R82 to R84, R88, R89, R91 of
spec/05_scalar.md).
-/
namespace Sys2Proof.Machine

/-- A refusal of an address at the PC. -/
def State.refuseAddress (s : State) (d : Denial) (va : Word) : Out := .next (s.deny d (s.refusal .page va))

/-- A load or an atomic arms the line monitor and clears the event bit (R91). -/
def State.arm (s : State) (key : Nat) : State := s.mapH (fun h => { h with monitor := some (key / 64), event := false })

/-- The value a scalar load of `n` bytes leaves (R82). -/
def loadValue (n : Nat) (signed : Bool) (v : Nat) : Word :=
  if signed then BitVec.ofInt 64 (toSigned (8 * n) v) else BitVec.ofNat 64 v

/-- Checks of a scalar access that reads or writes `n` bytes (R83, R301, R296): ALIGN, then PAGE or PERM, then breakpoints, then for an
access that reads an abort completion, of bytes that no store of the hart's own gives (R158). -/
def State.scalarCheck (s : State) (a : Access) (kinds : List Nat) (va : Word) (n : Nat) : Except Stop Place :=
  if va.toNat % n ≠ 0 then .error (.trap (s.refusal .align va))
  else match s.scalarPlace a va with
    | .error d => .error (d.stop (s.refusal .page va))
    | .ok p => match s.h.bpStop kinds va n (s.refusal .dbg va) with
      | some x => .error x
      | none => if a ≠ .store ∧ s.readAborts false p.key n then .error (.abort (s.refusal .data va)) else .ok p

/-- What the translation of an aligned scalar access leaves in the TLBs (R245). -/
def State.enteredAccess (s : State) (va : Word) (n : Nat) : State := if va.toNat % n ≠ 0 then s else s.enteredScalar va

/-- A scalar load of `n` bytes (R82, R83). -/
def State.scalarLoad (s : State) (xd xa : XReg) (off : BitVec 15) (n : Nat) (signed : Bool) : Out :=
  let va := s.h.rx xa + offMem off
  let s := s.enteredAccess va n
  match s.scalarCheck .load bpRead va n with
  | .error x => .next (s.stopAt x)
  | .ok p => ((s.afterRead (.scalar s.h.id) p.key n).arm p.key).result xd (loadValue n signed (s.readN false p.key n))

/-- The store that a scalar store of `n` bytes at `va` makes in context `c` (R82). -/
def scalarStoreOf (c : BitVec 16) (va : Word) (p : Place) (n : Nat) (v : Word) : Store :=
  { vector := false, ctxid := c, va := va, cells := cellsOf p.key n v.toNat, mask := 0xFF, repl := p.repl, atom := p.atom }

/-- A store of the scalar agent leaves the pipeline. -/
def State.scalarStored (s : State) (st : Store) : State := (s.store st).mapH (·.renumber st.ctxid st.va)

/-- A scalar store of `n` bytes (R82, R83). -/
def State.scalarStore (s : State) (xs xa : XReg) (off : BitVec 15) (n : Nat) : Out :=
  let va := s.h.rx xa + offMem off
  let s := s.enteredAccess va n
  match s.scalarCheck .store bpWrite va n with
  | .error x => .next (s.stopAt x)
  | .ok p => .next (s.scalarStored (scalarStoreOf s.h.ctxid va p n (s.h.rx xs))).advance

def execLdb (xd xa : XReg) (off : BitVec 15) (s : State) : Out := s.scalarLoad xd xa off 1 true
def execLdh (xd xa : XReg) (off : BitVec 15) (s : State) : Out := s.scalarLoad xd xa off 2 true
def execLdw (xd xa : XReg) (off : BitVec 15) (s : State) : Out := s.scalarLoad xd xa off 4 true
def execLdd (xd xa : XReg) (off : BitVec 15) (s : State) : Out := s.scalarLoad xd xa off 8 true
def execLdbu (xd xa : XReg) (off : BitVec 15) (s : State) : Out := s.scalarLoad xd xa off 1 false
def execLdhu (xd xa : XReg) (off : BitVec 15) (s : State) : Out := s.scalarLoad xd xa off 2 false
def execLdwu (xd xa : XReg) (off : BitVec 15) (s : State) : Out := s.scalarLoad xd xa off 4 false
def execStb (xs xa : XReg) (off : BitVec 15) (s : State) : Out := s.scalarStore xs xa off 1
def execSth (xs xa : XReg) (off : BitVec 15) (s : State) : Out := s.scalarStore xs xa off 2
def execStw (xs xa : XReg) (off : BitVec 15) (s : State) : Out := s.scalarStore xs xa off 4
def execStd (xs xa : XReg) (off : BitVec 15) (s : State) : Out := s.scalarStore xs xa off 8

/-! ### Atomics (R88, R89) -/

/-- Bytes of a scalar atomic. -/
def amoBytes : AmoSize → Nat
  | .w => 4
  | .d => 8

/-- Does the order hold earlier accesses before the atomic (R89)? -/
def amoReleases : AmoOrder → Bool
  | .rel => true
  | .ar => true
  | _ => false

/-- The new value of a location (R88), from the old value, the operand and the comparand, as `w`-bit numbers. -/
abbrev AmoFn := Nat → Nat → Nat → Nat → Nat

def amoSwap : AmoFn := fun _ _ b _ => b
def amoAdd : AmoFn := fun w old b _ => (old + b) % 2 ^ w
def amoAnd : AmoFn := fun _ old b _ => old &&& b
def amoOr : AmoFn := fun _ old b _ => old ||| b
def amoXor : AmoFn := fun _ old b _ => old ^^^ b
def amoMin : AmoFn := fun w old b _ => if toSigned w old ≤ toSigned w b then old else b
def amoMax : AmoFn := fun w old b _ => if toSigned w old ≤ toSigned w b then b else old
def amoMinu : AmoFn := fun _ old b _ => if old ≤ b then old else b
def amoMaxu : AmoFn := fun _ old b _ => if old ≤ b then b else old
def amoCas : AmoFn := fun _ old b c => if old = c then b else old

/-- Order before an atomic of the scalar agent: its own earlier writes, and at a release, for the parties of its scope, what it may
have read too (R89, R269, R270, R271). -/
def State.orderAtomic (s : State) (o : AmoOrder) (scope : Scope) : State :=
  if amoReleases o then s.orderAt scope true false else s.flushClosed.drainWhere (ownScalar s.h.id)

/-- A read-modify-write of `n` bytes by the scalar agent at its home: the state after it, and the old value. -/
def State.rmw (s : State) (order : AmoOrder) (scope : Scope) (p : Place) (n : Nat) (f : Nat → Nat) : State × Nat :=
  let s1 := (s.orderAtomic order scope).beforeHome (.scalar s.h.id) p.key n
  let old := readLE s1.mem.read p.key n
  (s1.perform (.scalar s.h.id) (cellsOf p.key n (f old)), old)

/-- A scalar atomic (R88): checks, the seal of an open strip (R159), then one indivisible read-modify-write at the home. An abort
completion comes after the seal (log 47). -/
def State.amo (s : State) (f : AmoFn) (xd xa xb : XReg) (size : AmoSize) (order : AmoOrder) (scope : Scope) : Out :=
  let n := amoBytes size
  let va := s.h.rx xa
  let s := s.enteredAccess va n
  match s.scalarCheck .atomic bpBoth va n with
  | .error (.abort t) => .next (s.seal.stopAt (.abort t))
  | .error x => .next (s.stopAt x)
  | .ok p =>
    let r := s.seal.rmw order scope p n (fun old => f (8 * n) old ((s.h.rx xb).toNat % 2 ^ (8 * n)) ((s.h.rx xd).toNat % 2 ^ (8 * n)))
    (r.1.arm p.key).result xd (BitVec.ofInt 64 (toSigned (8 * n) r.2))

def execAmoswap (xd xa xb : XReg) (size : AmoSize) (order : AmoOrder) (scope : Scope) (s : State) : Out :=
  s.amo amoSwap xd xa xb size order scope
def execAmoadd (xd xa xb : XReg) (size : AmoSize) (order : AmoOrder) (scope : Scope) (s : State) : Out :=
  s.amo amoAdd xd xa xb size order scope
def execAmoand (xd xa xb : XReg) (size : AmoSize) (order : AmoOrder) (scope : Scope) (s : State) : Out :=
  s.amo amoAnd xd xa xb size order scope
def execAmoor (xd xa xb : XReg) (size : AmoSize) (order : AmoOrder) (scope : Scope) (s : State) : Out :=
  s.amo amoOr xd xa xb size order scope
def execAmoxor (xd xa xb : XReg) (size : AmoSize) (order : AmoOrder) (scope : Scope) (s : State) : Out :=
  s.amo amoXor xd xa xb size order scope
def execAmomin (xd xa xb : XReg) (size : AmoSize) (order : AmoOrder) (scope : Scope) (s : State) : Out :=
  s.amo amoMin xd xa xb size order scope
def execAmomax (xd xa xb : XReg) (size : AmoSize) (order : AmoOrder) (scope : Scope) (s : State) : Out :=
  s.amo amoMax xd xa xb size order scope
def execAmominu (xd xa xb : XReg) (size : AmoSize) (order : AmoOrder) (scope : Scope) (s : State) : Out :=
  s.amo amoMinu xd xa xb size order scope
def execAmomaxu (xd xa xb : XReg) (size : AmoSize) (order : AmoOrder) (scope : Scope) (s : State) : Out :=
  s.amo amoMaxu xd xa xb size order scope
def execAmocas (xd xa xb : XReg) (size : AmoSize) (order : AmoOrder) (scope : Scope) (s : State) : Out :=
  s.amo amoCas xd xa xb size order scope

end Sys2Proof.Machine
end

