-- ==== Sys2Proof/Machine/Vset.lean ====
section
/-!
DEFINITION. Sys2Proof/Machine/Vset.lean: the occupancy manager, VSETVL and VSETVLI, strip heads and farm claims (R52 to
R63 of spec/04_harts_and_lanes.md; R157, R160 of spec/08_loop_control.md).
-/
namespace Sys2Proof.Machine

/-- Is a VT value consistent (R56)? -/
def vtConsistent (v : Word) : Bool :=
  let vt : BitVec 11 := v.truncate 11
  let sew := vt.toNat % 8
  let fmt := vtFmt vt
  v.toNat < 2 ^ 11 && sew ≤ 5 && fmt ≤ 4 && vtBlkCode vt ≤ 4
    && (fmt != 2 || 3 ≤ sew) && (fmt != 3 || sew == 3) && (fmt != 4 || (1 ≤ sew && sew ≤ 3))
    && vtBlock vt ≤ 1024 / vtSew vt

/-! ### The occupancy manager (R52 to R55) -/

/-- Is cluster `c` usable (R52)? -/
def Core.usable (k : Core) (c : Nat) : Bool := c < 8 && !bitAt k.lanedis.toNat c

/-- The harts whose GRANT names cluster `c`, in order (R54). -/
def Core.lineOf (k : Core) (c : Nat) : List Nat := k.line.getD c []

/-- The units a hart counts in: clusters 0 to 7, or pairs 0 to 3 (R52). -/
def unitsOf (prot : Bool) : List Nat := if prot then upTo 4 else upTo 8

/-- Number of usable units (R52). -/
def Core.usableUnits (k : Core) (prot : Bool) : Nat :=
  ((unitsOf prot).filter (fun u => (unitClusters prot u).all k.usable)).length

/-- The floor of a hart in its own unit, among `a` active harts (R52). -/
def Core.floorOf (k : Core) (prot : Bool) (a : Nat) : Nat := max 1 (k.usableUnits prot / a)

/-- The floor in clusters. -/
def Core.floorClusters (k : Core) (prot : Bool) (a : Nat) : Nat := k.floorOf prot a * (if prot then 2 else 1)

/-- Number of clusters a hart holds or is owed (R54). -/
def Core.holds (k : Core) (i : Nat) : Nat := ((upTo 8).filter (fun c => (k.lineOf c).contains i)).length

/-- Does a hart hold a cluster (R55): does its GRANT name it, and has it been released to it? -/
def Core.has (k : Core) (i c : Nat) : Bool := k.held.getD c none == some i && (k.lineOf c).contains i

/-- Number of clusters a hart holds, those owed to it not counted. -/
def Core.heldBy (k : Core) (i : Nat) : Nat := ((upTo 8).filter (k.has i)).length

/-- Does hart `i` stand last in line for cluster `c`? -/
def Core.lastFor (k : Core) (i c : Nat) : Bool := (k.lineOf c).getLast? == some i

/-- Put hart `i` at the end of the line for a cluster, unless it stands there. -/
def Core.joinLine (k : Core) (i c : Nat) : Core :=
  { k with line := modAt (fun l => if l.contains i then l else l ++ [i]) c k.line }

/-- A cluster that nobody holds goes to the first hart in line (R55). -/
def Core.settle (k : Core) : Core :=
  { k with held := (upTo 8).map (fun c =>
      match k.held.getD c none with
      | none => (k.lineOf c).head?
      | some j => some j) }

/-- What the occupancy manager reads of the harts of a core: number, protected mode in force. -/
abbrev Actives := List (Nat × Bool)

/-- The active hart other than `i` with the largest count above its floor, ties to the lower number, of those with a unit that `own` says
may be taken; its highest-numbered such unit. -/
def Core.victim (k : Core) (acts : Actives) (i : Nat) (prot : Bool) (got : List Nat) (count : Nat → Nat) (own : Nat → Nat → Bool) :
    Option Nat :=
  let free := (unitsOf prot).filter (fun u => (unitClusters prot u).all k.usable && !got.contains u)
  let mine := fun (j : Nat) => free.filter (fun u => (unitClusters prot u).any (own j))
  let above := fun (p : Nat × Bool) => (count p.1 : Int) - (k.floorClusters p.2 acts.length : Int)
  let cands := acts.filter (fun p => p.1 != i && !(mine p.1).isEmpty)
  let best := cands.foldl (fun (b : Option (Nat × Bool)) p =>
    match b with
    | none => some p
    | some q => if above q < above p then some p else some q) none
  match best with
  | none => none
  | some p => (mine p.1).getLast?

/-- Step 4 of R54 for one unit: the victim is the hart that holds the most clusters above its floor, and a unit that it holds is taken for
hart `i`, one that it does not owe already; where no hart holds such a unit, one that a hart is owed (log 14: the victim is chosen anew
for each unit). -/
def Core.takeOne (k : Core) (acts : Actives) (i : Nat) (prot : Bool) (got : List Nat) : Option Nat :=
  (k.victim acts i prot got k.heldBy (fun j c => k.has j c && k.lastFor j c)).orElse
    (fun _ => k.victim acts i prot got k.holds k.lastFor)

/-- Take up to `n` more units for hart `i`. -/
def Core.takeMore (k : Core) (acts : Actives) (i : Nat) (prot : Bool) : Nat → List Nat → Core × List Nat
  | 0, got => (k, got)
  | n + 1, got =>
    match k.takeOne acts i prot got with
    | none => (k, got)
    | some u => ((unitClusters prot u).foldl (fun k c => k.joinLine i c) k).takeMore acts i prot n (got ++ [u])

/-- The new units of hart `i` and the lines they leave (R54). A reserve that is an odd number of clusters keeps a whole pair from a hart
in protected mode (DESIGN CHOICE, log 52: the spec gives no rounding). A hart that receives fewer units than it held keeps the
lowest-numbered of them (DESIGN CHOICE, log 14: step 5 does not say which). -/
def Core.occupancy (k : Core) (acts : Actives) (i : Nat) (prot : Bool) : Core × List Nat :=
  let a := acts.length
  -- step 1: clusters owed to another hart leave; the others go back to the pool
  let gone := (upTo 8).filter (fun c => (k.lineOf c).contains i && (!k.lastFor i c || !k.usable c))
  let k1 := gone.foldl (fun k c => k.leaveLine i c) k
  let inPool := fun c => k1.usable c && ((k1.lineOf c).isEmpty || (k1.lineOf c).contains i)
  let pool := (unitsOf prot).filter (fun u => (unitClusters prot u).all inPool)
  let had := pool.filter (fun u => (unitClusters prot u).all (k1.has i))
  -- step 2
  let reserve := ((acts.filter (fun p => p.1 != i)).map (fun p => k1.floorClusters p.2 a - k1.holds p.1)).sum
  let reserveU := if prot then ceilDiv reserve 2 else reserve
  -- step 3
  let fl := k1.floorOf prot a
  let n := min pool.length (max fl (pool.length - reserveU))
  -- step 5
  let got := (had ++ pool.filter (fun u => !had.contains u)).take n
  let keep := got.flatMap (unitClusters prot)
  let k2 := (upTo 8).foldl (fun k c => if keep.contains c then k.joinLine i c else k.leaveLine i c) k1
  -- step 4
  k2.takeMore acts i prot (fl - n) got

/-- The GRANT that units spell: bit n for cluster n, in protected mode only the primary clusters (R58). -/
def grantOf (us : List Nat) : BitVec 8 := BitVec.ofNat 8 ((us.map (fun u => 2 ^ u)).sum)

/-- The active harts of the core in hand, those whose group has not retired (R52), with the mode each counts in; the hart in hand counts
in the mode PMODE now asks for (R53, R297; log 3). -/
def State.actives (s : State) : Actives :=
  (upTo 4).filterMap (fun i =>
    let h := s.hartOf (4 * s.core.id + i)
    if h.id = s.h.id then some (i, s.h.pmode) else if h.occupied then some (i, h.pmodeNow) else none)

/-- Recompute GRANT of the hart in hand (R54). -/
def State.regrant (s : State) : State :=
  let i := s.h.id % 4
  let r := s.core.occupancy s.actives i s.h.pmode
  let s1 := { s with core := { r.1.settle with rrGrant := (i + 1) % 4 } }
  s1.mapH (fun h => { h with grant := grantOf r.2, pmodeNow := h.pmode })

/-- Set VT, and VLCAP by GRANT (R58). -/
def State.setVt (s : State) (vt : BitVec 11) : State :=
  s.mapH (fun h => { h with vt := vt, vlcap := BitVec.ofNat 13 (vlcapOf h.grant vt) })

/-- The hart in hand stands in the line of a cluster where it stood in the line of core `k`: a place is given up only when the work before the
change of GRANT is done (R96; log 10). -/
def State.keepPlaces (s : State) (k : Core) : State :=
  let i := s.h.id % 4
  s.mapCore (fun n => ({ n with
    held := k.held
    line := (upTo 8).map (fun c => if (k.lineOf c).contains i then k.lineOf c else n.lineOf c) } : Core).settle)

/-- GRANT as a strip head ahead of unfinished work was given it takes its place in program order (R54, R93). -/
def State.takeGrant (s : State) (grant : BitVec 8) : State :=
  (s.mapH (fun h => { h with grant := grant, pmodeNow := h.pmode })).trimLines

/-- Release every cluster of the hart in hand (R55, R60): GRANT, VLCAP and VL become 0. It is a GRANT change, from which PMODE holds
(R53, R297). -/
def State.dropGrant (s : State) : State :=
  let i := s.h.id % 4
  let s1 := s.mapCore (fun k => ((upTo 8).foldl (fun k c => k.leaveLine i c) k))
  s1.mapH (fun h => { h with grant := 0, vlcap := 0, vl := 0, pmodeNow := h.pmode })

/-! ### Strip heads and farm claims (R157, R160) -/

/-- The checkpoint of a strip head (R157), from the state just before the VSETVL. -/
def State.checkpoint (s : State) (strip : Level) (claim : Option (Word × Word)) : Checkpoint :=
  let named := (upTo 8).map (fun i => s.h.loops.stripck.toNat / 2 ^ (5 * i) % 32) ++ [strip.xreg.toNat]
  { xs := (named.filter (· != 0)).map (fun r => (r, s.h.x.getD r 0)), vmt := s.h.vmt, loops := s.h.loops, pc := s.h.pc,
    claim := claim }

/-- Is a store one of the hart's scalar agent to the number at key `k` that a claim adds to? Such a store, aligned, lies within the number. -/
def Store.counts (k : Nat) (st : Store) : Bool := !st.vector && st.cells.any (fun c => k ≤ c.1 && c.1 < k + 8)

/-- The accesses of a fresh claim (R160): the atomic add to `next`, then the load of `total`, which returns the bytes of the stores `held`
that have not left the hart (R158). Of these the scalar ones to `next` are performed with the add, before it: one agent's accesses to the same bytes
keep program order (R269; log 10). Both are scalar accesses, so that they are compared with breakpoints (R301). -/
def State.freshClaim (s : State) (held : List Store) (d : Word) (cap : Nat) : Except Stop (State × Word × Nat) :=
  let s := (s.enteredScalar d).enteredScalar (d + 8)
  match s.scalarCheck .atomic bpBoth d 8 with
  | .error x => .error x
  | .ok p => match s.scalarCheck .load bpRead (d + 8) 8 with
    | .error x => .error x
    | .ok q =>
      let t := (held.filter (Store.counts p.key)).foldl (fun s st => s.accept (.scalar s.h.id) st false) s
      let r := t.rmw .rlx .dev p 8 (fun old => (old + cap) % 2 ^ 64)
      let total := readLE (fun k => held.foldl (fun b st => overlay k b st.mask st.cells) (r.1.readByte false k)) q.key 8
      .ok (r.1.afterRead (.scalar s.h.id) q.key 8, BitVec.ofNat 64 r.2, if r.2 < total then min cap (total - r.2) else 0)

/-- The farm claim at the strip head of level `l`, after GRANT and VLCAP are set (R160): base and length. One that a discarded head made
from the descriptor is taken with no new atomic (log 65). -/
def State.farmClaim (s : State) (held : List Store) (l : Level) : Except Stop (State × Word × Nat) :=
  if s.h.loops.replay then .ok (s, s.h.xstrip, l.lcnt.toNat)
  else if l.lcnt ≠ 0 then .ok (s, s.h.xstrip + BitVec.ofNat 64 l.svl, l.lcnt.toNat)
  else match s.h.keptClaim (s.h.rx l.xreg) with
    | some c => .ok (s.mapH (fun h => { h with claims := h.claims.erase c }), c.base, c.count)
    | none => s.freshClaim held (s.h.rx l.xreg) s.h.vlcap.toNat

/-- VL by the AVL and the block size (R61). -/
def vlOf (avl cap block : Nat) : Nat :=
  let vl := min avl cap
  if 1 < block ∧ block ≤ vl then vl / block * block else vl

/-- Open a strip at level `n` after its head has left VL (R157): `old` is the state just before the VSETVL. -/
def State.openStrip (s old : State) (n : Nat) (l : Level) (claim : Option (Word × Word)) (lcnt : Word) : State :=
  let ck := old.checkpoint l claim
  let replay := old.h.loops.replay
  s.mapH (fun h => { h with ckpt := some ck, loops :=
    { h.loops.setLevel n { l.withSvl h.vln with lcnt := lcnt } with
      opn := true, sealed := false, replay := false, rewinds := if replay then old.h.loops.rewinds else 0 } })

/-- The strip that is open when a strip head executes closes (R157). -/
def State.closeAtHead (s : State) : State :=
  if s.h.loops.stripLevel.isSome ∧ ¬ s.h.loops.replay then s.closeStrip else s

/-- The claim of a strip head (R160), after GRANT and VLCAP are set: none where no farm level is open at the current depth. -/
def State.headClaim (s : State) (held : List Store) : Except Stop (State × Option (Word × Nat)) :=
  match s.h.loops.stripLevel with
  | some (_, l) =>
    if l.farm then (s.farmClaim held l).map (fun r => (r.1, some r.2)) else .ok (s, none)
  | none => .ok (s, none)

/-- VL, the strip and X[xd] of a strip head (R61, R157), after GRANT, VT, VLCAP and the claim; `old` is the state just before it. -/
def State.headFinish (s old : State) (xd : XReg) (avl : Word) (claim : Option (Word × Nat)) : State :=
  let t := match claim with
    | some (base, c) =>
      let vl := min c s.h.vlcap.toNat
      let s1 := s.mapH (fun h => { h with vl := BitVec.ofNat 13 vl, xstrip := base })
      (match s.h.loops.stripLevel with
        | some (n, l) => s1.openStrip old n l (some (base, BitVec.ofNat 64 c)) (BitVec.ofNat 64 (c - vl))
        | none => s1)
    | none =>
      let s1 := s.mapH (fun h => { h with vl := BitVec.ofNat 13 (vlOf avl.toNat h.vlcap.toNat (vtBlock h.vt)) })
      (match s.h.loops.stripLevel with
        | some (n, l) => s1.openStrip old n l none l.lcnt
        | none => s1)
  (t.setX xd (t.h.vl.zeroExtend 64)).advance

/-- The common effect of VSETVL and VSETVLI (R61). A claim that is refused, or meets an abort completion, leaves the VSETVL without
effect, so that an earlier strip is still the open one (log 28). -/
def State.vsetvl (s : State) (xd : XReg) (avl vt : Word) : Out :=
  if !vtConsistent vt then s.illegal
  else match (s.closeAtHead.regrant.setVt (vt.truncate 11)).headClaim [] with
    | .error x => .next (s.stopAt x)
    | .ok (t, claim) => .next (t.headFinish s xd avl claim)

/-- VT as VSETVLI's fields spell it (R36). -/
def vsetvliVt (sew fmt blk : BitVec 3) (rm : BitVec 2) : Word :=
  BitVec.ofNat 64 (sew.toNat + 8 * fmt.toNat + 64 * blk.toNat + 512 * rm.toNat)

def execVsetvl (xd xa xb : XReg) (s : State) : Out := s.vsetvl xd (s.h.rx xa) (s.h.rx xb)
def execVsetvli (xd xa : XReg) (sew fmt blk : BitVec 3) (rm : BitVec 2) (s : State) : Out :=
  s.vsetvl xd (s.h.rx xa) (vsetvliVt sew fmt blk rm)

/-- May cluster `c` of core `k` pass on (R55): the hart that has it names it no longer, and has no convoy unretired that it issued while it
named it? -/
def State.clusterFree (s : State) (k : Core) (c : Nat) : Bool :=
  match k.held.getD c none with
  | none => true
  | some j => !(k.lineOf c).contains j && !(s.hartOf (4 * k.id + j)).convoys.any (fun v => v.issued && v.clusters.contains c)

/-- CLUSTER_RELEASE (R55): cluster `c` of core `core` passes to the first hart in line. -/
def State.releaseCluster (s : State) (core c : Nat) : State :=
  let k := s.coreOf core
  if s.clusterFree k c then s.onCore core (fun k => { k with held := k.held.set c (k.lineOf c).head? }) else s

def execClusterRelease (core cluster : Nat) (s : State) : Out := .next (s.releaseCluster core cluster)

/-- Has every cluster of GRANT been released to the hart in hand (R55)? -/
def State.grantHeld (s : State) : Bool :=
  s.h.usedClusters.all (fun c => s.core.held.getD c none == some (s.h.id % 4))

end Sys2Proof.Machine
end

