-- ==== Sys2Proof/Machine/Csr.lean ====
section
/-!
DEFINITION. Sys2Proof/Machine/Csr.lean: control and status registers: access checks (R73, R75), the value each reads as,
and the effect of a write (R57, R59, R60, R102, R144, R145, R164, R287, R297, R300).
-/
namespace Sys2Proof.Machine

/-- Does the CSR exist (Table 5.2)? -/
def csrExists (n : Nat) : Bool :=
  n ≤ 0x007 || (0x010 ≤ n && n ≤ 0x014) || (0x020 ≤ n && n ≤ 0x035) || (0x040 ≤ n && n ≤ 0x042)
    || (0x080 ≤ n && n ≤ 0x0AF) || (0x100 ≤ n && n ≤ 0x108) || (0x120 ≤ n && n ≤ 0x135) || (0x200 ≤ n && n ≤ 0x20F)
    || (0x300 ≤ n && n ≤ 0x302)

/-- CSRs that no mode may write (Table 5.2). -/
def csrReadOnly (n : Nat) : Bool := [0x003, 0x010, 0x011, 0x013, 0x014, 0x035, 0x301].contains n

/-- CSRs that user mode may not access (Table 5.2). -/
def csrSupervisor (n : Nat) : Bool := (0x100 ≤ n && n ≤ 0x135) || (0x200 ≤ n && n ≤ 0x20F)

/-- CSRs that user mode may write (Table 5.2). -/
def csrUserWrite (n : Nat) : Bool := [0x002, 0x007, 0x034].contains n

/-- The CSRs on which a CSRRWI that changes nothing counts as a read (R59). -/
def csrQuiet (n : Nat) : Bool := [0x000, 0x001, 0x003, 0x004, 0x301].contains n

/-! ### Values -/

/-- SSBUSE of a set of loop CSRs with a number of entries in use (Table 8.2). -/
def ssbuseOf (l : Loops) (entries : Nat) : Word :=
  BitVec.ofNat 64 (2 ^ 17 * l.opn.toNat + 2 ^ 16 * l.sealed.toNat + 2 ^ 12 * l.rewinds.toNat + 2 ^ 11 * l.replay.toNat + entries)

/-- LSP of a set of loop CSRs. -/
def lspOf (l : Loops) : Word :=
  BitVec.ofNat 64 (packFrom 8 (fun n => (l.level n).sp.toNat) 0 4)

/-- The loop CSR at offset `o` from 0x020 or 0x120 (Tables 8.2, 8.3). -/
def loopCsr (l : Loops) (entries : Nat) (o : Nat) : Word :=
  if o = 0 then l.lact.zeroExtend 64
  else if o = 1 then BitVec.ofNat 64 (2 * l.rrb.toNat)
  else if o = 2 then l.cdepth.zeroExtend 64
  else if o = 3 then lspOf l
  else if o < 8 then (l.level (o - 4)).lbeg
  else if o < 12 then (l.level (o - 8)).lend
  else if o < 16 then (l.level (o - 12)).lcnt
  else if o < 20 then (l.level (o - 16)).lflg.zeroExtend 64
  else if o = 20 then l.stripck.zeroExtend 64
  else ssbuseOf l entries

/-- STATUS (Table 19.2). -/
def TrapRegs.status (t : TrapRegs) : Word :=
  BitVec.ofNat 64 (128 * t.dbga.toNat + 64 * t.psup.toNat + 32 * t.pte.toNat + 16 * t.sup.toNat + 4 * t.skip.toNat + t.te.toNat)

/-- The code of a pane type (Table 19.3). -/
def PaneType.code : PaneType → Nat
  | .none => 0
  | .fp64 => 1
  | .fp32 => 2
  | .int32 => 3
  | .int64 => 4

/-- The pane `n` of a core. -/
def Core.pane (k : Core) (n : Nat) : Pane := k.panes.getD n freePane

/-- ESHADOW.DATA under a selector (Table 19.3). -/
def State.shadowData (s : State) : Nat :=
  let sel := s.h.trap.sel.toNat
  let mine := fun n => (s.core.pane n).owner == some s.h.id
  if sel = 0 then s.h.trap.live.toNat + 2 * s.h.trap.overrun.toNat
  else if sel = 1 then packFrom 1 (fun n => (mine n).toNat) 0 48
  else if sel ≤ 5 then
    packFrom 4 (fun i =>
      let n := 12 * (sel - 2) + i
      if mine n then (s.core.pane n).ty.code + 8 * (s.core.pane n).failed.toNat else 0) 0 12
  else if sel = 6 then
    packFrom 1 (fun i => (s.h.streams.getD i none).isSome.toNat) 0 16
      + 2 ^ 16 * packFrom 1 (fun i => match s.h.streams.getD i none with | some q => (q.status != 0).toNat | none => 0) 0 16
  else if sel ≤ 10 then (s.h.hf.getD (sel - 7) 0).toNat % 2 ^ 20
  else 0

/-- The value a CSR reads as. -/
def State.readCsr (s : State) (n : Nat) : Word :=
  let h := s.h
  if n = 0x000 then h.vl.zeroExtend 64
  else if n = 0x001 then h.vt.zeroExtend 64
  else if n = 0x002 then h.vmt.zeroExtend 64
  else if n = 0x003 then h.vlcap.zeroExtend 64
  else if n = 0x004 then h.grant.zeroExtend 64
  else if n = 0x005 then h.xexit
  else if n = 0x006 then h.xstrip
  else if n = 0x007 then h.fflags.zeroExtend 64
  else if n = 0x010 then BitVec.ofNat 64 (h.id % 2 ^ 14)
  else if n = 0x011 then h.groupid.zeroExtend 64
  else if n = 0x012 then h.ctxid.zeroExtend 64
  else if n = 0x013 then BitVec.ofNat 64 s.dev.cycle
  else if n = 0x014 then BitVec.ofNat 64 s.dev.time
  else if 0x020 ≤ n ∧ n ≤ 0x035 then loopCsr h.loops h.ssbEntries (n - 0x020)
  else if n = 0x040 then h.vdirty.zeroExtend 64
  else if n = 0x041 then h.kdirty.zeroExtend 64
  else if n = 0x042 then h.vstate.zeroExtend 64
  else if 0x080 ≤ n ∧ n ≤ 0x0AF then BitVec.ofNat 64 (h.v.getD (n - 0x080) { bits := 0, tag := 0 }).tag
  else if n = 0x100 then h.trap.status
  else if n = 0x101 then h.trap.tvec
  else if n = 0x102 then h.trap.epc
  else if n = 0x103 then h.trap.ecause.zeroExtend 64
  else if n = 0x104 then h.trap.eval
  else if n = 0x105 then h.trap.eelem.zeroExtend 64
  else if n = 0x106 then h.trap.elane.zeroExtend 64
  else if n = 0x107 then h.trap.escratch
  else if n = 0x108 then BitVec.ofNat 64 (2 ^ 56 * h.trap.sel.toNat + s.shadowData)
  else if 0x120 ≤ n ∧ n ≤ 0x135 then loopCsr h.shadow 0 (n - 0x120)
  else if 0x200 ≤ n ∧ n ≤ 0x207 then h.dba.getD (n - 0x200) 0
  else if 0x208 ≤ n ∧ n ≤ 0x20F then (h.dbctl.getD (n - 0x208) 0).zeroExtend 64
  else if n = 0x300 then boolWord h.pmode
  else if n = 0x301 then s.core.lanedis.zeroExtend 64
  else if n = 0x302 then h.retry.zeroExtend 64
  else 0

/-! ### Writes of one register each -/

/-- The answer of a CSR write: the state after it, or the cause that refuses it. -/
abbrev CsrResult := Except Cause State

/-- Keep a value of `w` bits or refuse it: bits above are fields shown as zero (R75 step 4). -/
def fits (w : Nat) (v : Word) (k : CsrResult) : CsrResult := if v.toNat < 2 ^ w then k else .error .ill

/-- VT_WRITE (R60). -/
def State.writeVt (s : State) (v : Word) : CsrResult :=
  if !vtConsistent v then .error .ill
  else
    let s1 := s.regrant.setVt (v.truncate 11)
    .ok (s1.mapH (fun h => { h with vl := BitVec.ofNat 13 (min h.vl.toNat h.vlcap.toNat) }))

/-- VL_WRITE (R60). -/
def State.writeVl (s : State) (v : Word) : CsrResult :=
  .ok (s.mapH (fun h => { h with vl := BitVec.ofNat 13 (min v.toNat h.vlcap.toNat) }))

/-- GRANT_WRITE_ZERO (R60); a value other than 0 is refused (R59). -/
def State.writeGrant (s : State) (v : Word) : CsrResult := if v = 0 then .ok s.dropGrant else .error .ill

/-- VMT_WRITE (R57). -/
def State.writeVmt (s : State) (v : Word) : CsrResult :=
  fits 12 v (if (bitAt v.toNat 2 && v.toNat % 4 == 0) || (!bitAt v.toNat 2 && field v 3 9 != 0) then .error .ill
    else .ok (s.mapH (fun h => { h with vmt := v.truncate 12 })))

/-- Set every tag to 0 and clear the masks and the dirty bits (R102). -/
def Hart.initVector (h : Hart) : Hart :=
  { h with v := h.v.map (fun _ => { bits := 0, tag := 0 }), k := h.k.map (fun _ => 0), vdirty := 0, kdirty := 0 }

/-- VSTATE_WRITE (R102). -/
def State.writeVstate (s : State) (v : Word) : CsrResult :=
  fits 2 v (.ok (s.mapH (fun h =>
    let h := if v = 1 then h.initVector else if v = 2 then { h with vdirty := 0, kdirty := 0 } else h
    { h with vstate := v.truncate 2 })))

/-- A register with a new length tag: nothing above the old tag shows (R102). -/
def VReg.retag (r : VReg) (t : Nat) : VReg :=
  { bits := r.bits &&& BitVec.ofNat 8192 (2 ^ min r.tag t - 1), tag := t }

/-- VTAG_WRITE (R102). -/
def State.writeVtag (s : State) (n : Nat) (v : Word) : CsrResult :=
  if v.toNat ≤ 8192 then .ok (s.mapH (fun h => { h with v := modAt (·.retag v.toNat) n h.v })) else .error .ill

/-- The rules of R148 on a set of loop CSRs (R145): at most one rotating and one strip level, and no level ending past a
level around it at its depth. -/
def Loops.nested (l : Loops) : Bool :=
  let a := l.active
  (a.filter (fun p => p.2.rot)).length ≤ 1 && (a.filter (fun p => p.2.strip)).length ≤ 1
    && a.all (fun p => a.all (fun q => !(p.1 < q.1 && p.2.ldep == q.2.ldep) || q.2.lend.toNat ≤ p.2.lend.toNat))

/-- Is LACT one of the five values of R143? -/
def lactOk (v : Nat) : Bool := [0, 1, 3, 7, 15].contains v

/-- The levels that become inactive lose their fields (R144). -/
def Loops.withLact (l : Loops) (v : BitVec 4) : Loops :=
  { l with lact := v, levels := (upTo 4).map (fun n => if l.lact.getLsbD n && !v.getLsbD n then freeLevel else l.level n) }

/-- Is level `n` active? -/
def Loops.isActive (l : Loops) (n : Nat) : Bool := l.lact.getLsbD n

/-- Accept new loop CSRs unless a level concerned is active and the rules of R148 break (R145). -/
def nestCheck (concerned : Bool) (l : Loops) : Except Cause Loops :=
  if concerned ∧ ¬ l.nested then .error .lnest else .ok l

/-- Replace a field of level `n`. -/
def Loops.putLevel (l : Loops) (n : Nat) (v : Level) : Except Cause Loops := nestCheck (l.isActive n) (l.setLevel n v)

/-- LOOP_CSR_WRITE: the loop CSR at offset `o` (R145); SSBUSE apart. A write of LFLGn leaves LSP as it stands, also when it lowers S below
bits of SPn that are set (DESIGN CHOICE, log 51). -/
def Loops.writeCsr (l : Loops) (o : Nat) (v : Word) : Except Cause Loops :=
  if o = 0 then
    if v.toNat < 16 ∧ lactOk v.toNat then nestCheck true (l.withLact (v.truncate 4)) else .error .ill
  else if o = 1 then if v.toNat < 32 then .ok { l with rrb := v.extractLsb' 1 4 } else .error .ill
  else if o = 2 then if v.toNat < 256 then .ok { l with cdepth := v.truncate 8 } else .error .ill
  else if o = 3 then
    if v.toNat < 2 ^ 32 ∧ (upTo 4).all (fun n => field v (8 * n) 8 < 2 ^ (l.level n).stages) then
      .ok { l with levels := (upTo 4).map (fun n => { l.level n with sp := v.extractLsb' (8 * n) 8 }) }
    else .error .ill
  else if o < 8 then if v.toNat % 4 = 0 then l.putLevel (o - 4) { l.level (o - 4) with lbeg := v } else .error .ill
  else if o < 12 then if v.toNat % 4 = 0 then l.putLevel (o - 8) { l.level (o - 8) with lend := v } else .error .ill
  else if o < 16 then l.putLevel (o - 12) { l.level (o - 12) with lcnt := v }
  else if o < 20 then
    if v.toNat < 2 ^ 34 ∧ field v 6 2 = 0 then l.putLevel (o - 16) { l.level (o - 16) with lflg := v.truncate 34 }
    else .error .ill
  else if o = 20 then if v.toNat < 2 ^ 40 then .ok { l with stripck := v.truncate 40 } else .error .ill
  else .error .ill

/-- Replace the live loop CSRs. -/
def State.setLoops (s : State) (l : Loops) : State := s.mapH (fun h => { h with loops := l })

/-- A write to a live loop CSR. -/
def State.writeLoop (s : State) (o : Nat) (v : Word) : CsrResult := (s.h.loops.writeCsr o v).map s.setLoops

/-- SHADOW_SSBUSE_WRITE (R164): OPEN with SEALED clear stores SEALED 1. ENTRIES reads as 0 there, and a write that would make it differ is
refused (R75 step 4). -/
def State.writeShadowSsbuse (s : State) (v : Word) : CsrResult :=
  if 2 ^ 18 ≤ v.toNat ∨ field v 0 11 ≠ 0 then .error .ill
  else .ok (s.mapH (fun h => { h with shadow := { h.shadow with
    opn := bitAt v.toNat 17, sealed := bitAt v.toNat 16 || bitAt v.toNat 17, rewinds := v.extractLsb' 12 4,
    replay := bitAt v.toNat 11 } }))

/-- A write to a shadow loop CSR (R145). -/
def State.writeShadow (s : State) (o : Nat) (v : Word) : CsrResult :=
  if o = 21 then s.writeShadowSsbuse v
  else (s.h.shadow.writeCsr o v).map (fun l => s.mapH (fun h => { h with shadow := l }))

/-- FFLAGS_WRITE (R110, R200): only flags already ORed in are cleared. -/
def State.writeFflags (s : State) (v : Word) : CsrResult := fits 5 v (.ok (s.mapH (fun h => { h with fflags := v.truncate 5 })))

/-- Change the trap registers. -/
def State.mapTrap (s : State) (f : TrapRegs → TrapRegs) : State := s.mapH (fun h => { h with trap := f h.trap })

/-- ESHADOW_SELECT (R287): DATA must keep its value, and the selector be at most 10. -/
def State.selectShadow (s : State) (v : Word) : CsrResult :=
  if field v 0 56 = s.shadowData ∧ field v 56 8 ≤ 10 then .ok (s.mapTrap (fun t => { t with sel := v.extractLsb' 56 8 }))
  else .error .ill

/-- STATUS: DBGA and SUP keep their value, zero bits stay zero (Table 19.2). -/
def State.writeStatus (s : State) (v : Word) : CsrResult :=
  let t := s.h.trap
  if v.toNat < 256 ∧ bitAt v.toNat 7 = t.dbga ∧ bitAt v.toNat 4 = t.sup ∧ !bitAt v.toNat 3 ∧ !bitAt v.toNat 1 then
    .ok (s.mapTrap (fun t => { t with psup := bitAt v.toNat 6, pte := bitAt v.toNat 5, skip := bitAt v.toNat 2,
                                      te := bitAt v.toNat 0 }))
  else .error .ill

/-- PMODE_WRITE and RETRY_WRITE (R297). -/
def State.writePmode (s : State) (v : Word) : CsrResult := fits 1 v (.ok (s.mapH (fun h => { h with pmode := v != 0 })))
def State.writeRetry (s : State) (v : Word) : CsrResult := fits 4 v (.ok (s.mapH (fun h => { h with retry := v.truncate 4 })))

/-- Is a breakpoint an execute breakpoint, enabled or not, at an address that no word has (R300)? A DBCTLn at reset, with EN 0 and KIND 0, counts
as one (DESIGN CHOICE, log 25: R300 does not say whether EN matters). -/
def bpCrooked (a : Word) (c : BitVec 32) : Bool := c.toNat / 2 % 4 == 0 && a.toNat % 4 != 0

/-- DBAn and DBCTLn (R300). -/
def State.writeDba (s : State) (n : Nat) (v : Word) : CsrResult :=
  if bpCrooked v (s.h.dbctl.getD n 0) then .error .ill else .ok (s.mapH (fun h => { h with dba := h.dba.set n v }))
def State.writeDbctl (s : State) (n : Nat) (v : Word) : CsrResult :=
  if v.toNat < 2 ^ 32 ∧ field v 11 5 = 0 ∧ field v 4 6 ≤ 32 ∧ !bpCrooked (s.h.dba.getD n 0) (v.truncate 32) then
    .ok (s.mapH (fun h => { h with dbctl := h.dbctl.set n (v.truncate 32) }))
  else .error .ill

/-- Word-aligned registers (TVEC, EPC). -/
def aligned4 (v : Word) (k : CsrResult) : CsrResult := if v.toNat % 4 = 0 then k else .error .ill

/-- Steps 4 and 5 of R75, and the effect, for CSR `n`. -/
def State.writeValue (s : State) (n : Nat) (v : Word) : CsrResult :=
  if n = 0x000 then s.writeVl v
  else if n = 0x001 then s.writeVt v
  else if n = 0x002 then s.writeVmt v
  else if n = 0x004 then s.writeGrant v
  else if n = 0x005 then .ok (s.mapH (fun h => { h with xexit := v }))
  else if n = 0x006 then .ok (s.mapH (fun h => { h with xstrip := v }))
  else if n = 0x007 then s.writeFflags v
  else if n = 0x012 then fits 16 v (.ok (s.mapH (fun h => { h with ctxid := v.truncate 16 })))
  else if 0x020 ≤ n ∧ n ≤ 0x034 then s.writeLoop (n - 0x020) v
  else if n = 0x040 then fits 48 v (.ok (s.mapH (fun h => { h with vdirty := v.truncate 48 })))
  else if n = 0x041 then fits 12 v (.ok (s.mapH (fun h => { h with kdirty := v.truncate 12 })))
  else if n = 0x042 then s.writeVstate v
  else if 0x080 ≤ n ∧ n ≤ 0x0AF then s.writeVtag (n - 0x080) v
  else if n = 0x100 then s.writeStatus v
  else if n = 0x101 then aligned4 v (.ok (s.mapTrap (fun t => { t with tvec := v })))
  else if n = 0x102 then aligned4 v (.ok (s.mapTrap (fun t => { t with epc := v })))
  else if n = 0x103 then fits 12 v (.ok (s.mapTrap (fun t => { t with ecause := v.truncate 12 })))
  else if n = 0x104 then .ok (s.mapTrap (fun t => { t with eval := v }))
  else if n = 0x105 then fits 13 v (.ok (s.mapTrap (fun t => { t with eelem := v.truncate 13 })))
  else if n = 0x106 then fits 5 v (.ok (s.mapTrap (fun t => { t with elane := v.truncate 5 })))
  else if n = 0x107 then .ok (s.mapTrap (fun t => { t with escratch := v }))
  else if n = 0x108 then s.selectShadow v
  else if 0x120 ≤ n ∧ n ≤ 0x135 then s.writeShadow (n - 0x120) v
  else if 0x200 ≤ n ∧ n ≤ 0x207 then s.writeDba (n - 0x200) v
  else if 0x208 ≤ n ∧ n ≤ 0x20F then s.writeDbctl (n - 0x208) v
  else if n = 0x300 then s.writePmode v
  else if n = 0x302 then s.writeRetry v
  else .error .ill

/-! ### Accesses (R75) -/

/-- Steps 1 to 3 of R75. -/
def State.csrAccess (s : State) (n : Nat) (write : Bool) : Option Cause :=
  if !csrExists n then some .ill
  else if write && csrReadOnly n then some .ill
  else if !s.h.trap.sup && (csrSupervisor n || (write && !csrUserWrite n)) then some .perm
  else none

/-- EVAL of a refusal of a CSR access: the address of the word for ILL (R29), 0 otherwise (log 16). -/
def State.csrEval (s : State) (c : Cause) : Word := if c = .ill then s.h.pc else 0

/-- A write to CSR `n` after the checks of R75. -/
def State.csrWrite (s : State) (n : Nat) (v : Word) : CsrResult :=
  match s.csrAccess n true with
  | some c => .error c
  | none => s.writeValue n v

/-- Reads the old value into X[xd] and writes the new one, if it writes (R75). -/
def State.csrOp (s : State) (n : Nat) (xd : XReg) (write : Bool) (v : Word) : Out :=
  match s.csrAccess n write with
  | some c => s.trapped c (s.csrEval c)
  | none =>
    let old := s.readCsr n
    if write then
      match s.writeValue n v with
      | .error c => s.trapped c (s.csrEval c)
      | .ok t => t.result xd old
    else s.result xd old

def execCsrrw (xd xa : XReg) (csr : BitVec 12) (s : State) : Out := s.csrOp csr.toNat xd true (s.h.rx xa)
def execCsrrs (xd xa : XReg) (csr : BitVec 12) (s : State) : Out :=
  s.csrOp csr.toNat xd (xa != 0) (s.readCsr csr.toNat ||| s.h.rx xa)
def execCsrrc (xd xa : XReg) (csr : BitVec 12) (s : State) : Out :=
  s.csrOp csr.toNat xd (xa != 0) (s.readCsr csr.toNat &&& ~~~ s.h.rx xa)
/-- CSRRWI. On the five CSRs of R59 it is a read where its operand is the CSR's value; for VL that is uimm5 itself, not min(uimm5, VLCAP) (DESIGN
CHOICE, log 16: R59 speaks of the resulting value). -/
def execCsrrwi (xd uimm : XReg) (csr : BitVec 12) (s : State) : Out :=
  let v : Word := uimm.zeroExtend 64
  s.csrOp csr.toNat xd (!(csrQuiet csr.toNat && v == s.readCsr csr.toNat)) v

/-- A write event: the effect of the write on the hart in hand, or the trap that refuses it. -/
def State.csrEvent (s : State) (n : Nat) (v : Word) : Out :=
  match s.csrWrite n v with
  | .error c => s.trapped c (s.csrEval c)
  | .ok t => .next t

def execVtWrite (value : Word) (s : State) : Out := s.csrEvent 0x001 value
def execVlWrite (value : Word) (s : State) : Out := s.csrEvent 0x000 value
def execGrantWriteZero (s : State) : Out := s.csrEvent 0x004 0
def execVmtWrite (value : Word) (s : State) : Out := s.csrEvent 0x002 value
def execVstateWrite (value : Word) (s : State) : Out := s.csrEvent 0x042 value
def execVtagWrite (register : BitVec 6) (value : Word) (s : State) : Out := s.csrEvent (0x080 + register.toNat) value
def execLoopCsrWrite (csr : BitVec 12) (value : Word) (s : State) : Out := s.csrEvent csr.toNat value
def execShadowSsbuseWrite (value : Word) (s : State) : Out := s.csrEvent 0x135 value
def execFflagsWrite (value : Word) (s : State) : Out := s.csrEvent 0x007 value
def execEshadowSelect (value : Word) (s : State) : Out := s.csrEvent 0x108 value
def execPmodeWrite (value : Word) (s : State) : Out := s.csrEvent 0x300 value
def execRetryWrite (value : Word) (s : State) : Out := s.csrEvent 0x302 value
def execCsrWrite (csr : BitVec 12) (value : Word) (s : State) : Out := s.csrEvent csr.toNat value

end Sys2Proof.Machine
end

