-- ==== Sys2Proof/Machine/System.lean ====
section
/-!
DEFINITION. Sys2Proof/Machine/System.lean: TRAP, BRK, ERET, WFE, YIELD, SNAP, IFENCE (R90 to R92, R289 of
spec/05_scalar.md and spec/19_faults_and_reliability.md), FENCE and BAR (R272 to R276 of spec/17_visibility.md), words that
are no instruction (R30 of spec/02_encoding.md), and the events that end a hart's wait.
-/
namespace Sys2Proof.Machine

def execTrap (code : BitVec 14) (s : State) : Out := s.trapped .trap (code.zeroExtend 64)
def execBrk (s : State) : Out := s.trapped .brk 0

/-- ERET (R289): PERM in user mode (R90). -/
def execEret (s : State) : Out := if s.h.trap.sup then .next s.leave else s.trapped .perm 0

/-- YIELD (R92): the core's round-robin pointers advance past the hart. -/
def execYield (s : State) : Out :=
  let i := (s.h.id % 4 + 1) % 4
  .next (s.mapCore (fun k => { k with rrGrant := i, rrIssue := i })).advance

def execSnap (s : State) : Out := .next s.triggerSnapshot.advance

/-- The instruction cache without what hart `i` of its core may be served. -/
def Core.discardFetched (i : Nat) (k : Core) : Core :=
  { k with icache := (k.icache.map (fun e => { e with harts := e.harts &&& ~~~ (BitVec.ofNat 4 (2 ^ i)) })).filter (·.harts != 0) }

/-- IFENCE (R92): seals a strip (R159), makes the hart's stores visible to its fetches, discards fetched words. -/
def execIfence (s : State) : Out := .next ((s.seal.order true true).mapCore (Core.discardFetched (s.h.id % 4))).advance

/-- A fetched word that is no instruction (R30): LNEST for LOOP with FARM, else ILL. A body length of 0 is ILL whatever FARM says (R29, R146). -/
def execNonInstructionEncoding (w : Word32) (s : State) : Out :=
  if w.toNat / 2 ^ 26 = 0x2C ∧ bitAt w.toNat 16 ∧ w.toNat % 2 ^ 16 ≠ 0 then s.trapped .lnest 0 else s.illegal

/-! ### Waiting for an event (R91) -/

/-- First address of the 64-byte line of an address. -/
def lineOf (a : Word) : Word := BitVec.ofNat 64 (a.toNat / 64 * 64)

/-- WFE (R91). -/
def execWfe (xa : XReg) (s : State) : Out :=
  let l := lineOf (s.h.rx xa)
  let s := s.enteredScalar l
  match s.scalarCheck .load bpRead l 64 with
  | .error x => .next (s.stopAt x)
  | .ok p =>
    let s1 := s.mapH (fun h => { h with monitor := some (p.key / 64) })
    if s1.h.event then .next (s1.mapH (fun h => { h with event := false })).advance
    else .next (s1.mapH (fun h => { h with wait := .wfe s.dev.time }))

/-- Act on hart `id` with the machine's hand, and put back the hart that was in hand. -/
def State.withHart (s : State) (id : Nat) (f : State → State) : State := (f (s.focus id)).focus s.h.id

/-- WFE_WAKE (R91). -/
def State.wake (s : State) : State :=
  match s.h.wait with
  | .wfe _ => if s.h.event then (s.mapH (fun h => { h with event := false, wait := .none })).advance else s
  | _ => s

def execWfeWake (hart : Nat) (s : State) : Out := .next (s.withHart hart State.wake)

/-- WFE_TIMEOUT (R91): 65,536 TIME counts after the wait began. -/
def State.wfeTimeout (s : State) : State :=
  match s.h.wait with
  | .wfe t => if t + 65536 ≤ s.dev.time then s.mapH (fun h => { h with event := true }) else s
  | _ => s

def execWfeTimeout (hart : Nat) (s : State) : Out := .next (s.withHart hart State.wfeTimeout)

/-! ### Fences (R272, R273) -/

/-- Has every stream that the hart started settled as a fence asks (R273)? -/
def Hart.streamsSettled (h : Hart) : Bool :=
  h.streams.all (fun q => match q with
    | none => true
    | some q => q.complete || q.status != 0 || (q.kind == 2 && q.sent))

/-- Does the fence's earlier set hold the vector agent's accesses, the scalar agent's (Table 17.2)? -/
def fenceVector : FenceKind → Bool
  | .sv => false
  | _ => true
def fenceScalar : FenceKind → Bool
  | .sv => true
  | .all => true
  | _ => false

/-- Has everything settled that a fence of the kind waits for (R273)? -/
def Hart.fenceReady (h : Hart) (k : FenceKind) : Bool :=
  (!fenceVector k || h.streamsSettled) && (k != .all || h.mq.isEmpty)

/-- The earlier set of a fence of the hart in hand at a scope (R271, R272): its own writes of the agents named, performed at once, and the
writes of others that it may have read, which the hart's later accesses come after; not what every party of the scope has already
(log 8). -/
def State.fenceOrder (s : State) (scope : Scope) (scalar vector : Bool) : State :=
  let f := s.flushClosed
  let t := f.drainWhere (fun w => f.h.made scalar vector w && !f.servedAt scope w)
  let met := (t.dev.writes.filter (fun w => !w.done && ((t.mayHaveRead w && !t.servedAt scope w) || t.h.behind.contains w.id))).map (·.id)
  t.mapH (fun h => { h with behind := met })

/-- FENCE (R272): seals an open strip, waits, orders the earlier set (log 8). -/
def execFence (kind : FenceKind) (scope : Scope) (s : State) : Out :=
  let s1 := s.seal
  if s1.h.fenceReady kind then .next (s1.fenceOrder scope (fenceScalar kind) (fenceVector kind)).advance
  else .next (s1.mapH (fun h => { h with wait := .fence kind }))

/-! ### Barriers (R275, R276) -/

/-- The harts of the hart's group on its core that are active. -/
def State.groupHarts (s : State) : List Hart :=
  (s.hartsOfCore s.core.id).filter (fun h => h.active && h.task == s.h.task && h.groupid == s.h.groupid)

/-- The core-scope count of the hart's group. -/
def State.coreBar (s : State) : CoreBar :=
  (s.core.bars.find? (fun b => b.task == s.h.task && b.group == s.h.groupid)).getD
    { task := s.h.task, group := s.h.groupid, gen := 0, arrived := 0 }

/-- Keep a core-scope count. -/
def State.setCoreBar (s : State) (b : CoreBar) : State :=
  s.mapCore (fun k => { k with bars := b :: k.bars.filter (fun c => !(c.task == b.task && c.group == b.group)) })

/-- Complete a core-scope generation once every participant has arrived (R275, R276; log 17). -/
def State.settleCoreBar (s : State) : State :=
  let b := s.coreBar
  if 0 < b.arrived ∧ s.groupHarts.length ≤ b.arrived then
    s.setCoreBar { b with arrived := 0, gen := (b.gen + 1) % 2 ^ 32 }
  else s

/-- Go on when a barrier has let the hart pass. -/
def State.barPass (s : State) : State := (s.mapH (fun h => { h with wait := .none })).advance

/-- The arrival at a core-scope barrier (R275, R276). -/
def State.barCore (s : State) : State :=
  let b := s.coreBar
  let s1 := (s.setCoreBar { b with arrived := b.arrived + 1 }).settleCoreBar
  if s1.coreBar.gen ≠ b.gen then s1.advance else s1.mapH (fun h => { h with wait := .bar none b.gen })

/-- The arrival at a counter in memory (R276). -/
def State.barMemory (s : State) (va : Word) (key : Nat) : Out :=
  let s := s.beforeHome (.scalar s.h.id) key 8
  let c := s.mem.dword key
  let expected := field c 0 16
  let arrived := field c 16 16
  let gen := field c 32 32
  if expected = 0 ∨ expected ≤ arrived then s.trapped .perm va
  else
    let last := arrived + 1 = expected
    let new := if last then (gen + 1) % 2 ^ 32 * 2 ^ 32 + expected else gen * 2 ^ 32 + (arrived + 1) * 2 ^ 16 + expected
    let s1 := s.perform (.scalar s.h.id) (cellsOf key 8 new)
    if last then .next s1.advance else .next (s1.mapH (fun h => { h with wait := .bar (some va) gen }))

/-- BAR (R275, R276). The page's ATOM is checked before the read-modify-write is compared with breakpoints or meets an abort completion. -/
def execBar (xa : XReg) (scope : Scope) (s : State) : Out :=
  let small := scope = .hart ∨ scope = .core
  if small ∧ xa ≠ 0 then s.illegal
  else
    let s1 := s.seal
    if !s1.h.fenceReady .all then .next (s1.mapH (fun h => { h with wait := .barDrain scope xa.toNat }))
    else
      let s2 := s1.order true true
      if scope = .hart then .next s2.advance
      else if scope = .core then .next s2.barCore
      else
        let va := s.h.rx xa
        if va.toNat % 8 ≠ 0 then s2.trapped .align va
        else if localBase ≤ va.toNat then s2.trapped .page va
        else
          let s3 := s2.entered va
          match s3.translate .atomic va with
          | .error d => s3.refuseAddress d va
          | .ok p =>
            if !p.atom then s3.trapped .perm va
            else match s3.scalarCheck .atomic bpBoth va 8 with
              | .error x => .next (s3.stopAt x)
              | .ok p => s3.barMemory va p.key

/-- The counter of a waiting BAR is denied now: what refuses the BAR is taken, with nothing of its arrival withdrawn (R243, R296; DESIGN CHOICE,
log 70). -/
def State.barDenied (s : State) (va : Word) (d : Denial) : State :=
  (s.mapH (fun h => { h with wait := .none })).deny d (s.refusal .page va)

/-- BAR_RELEASE (R276): a waiting BAR completes when the counter's GEN has changed; each look at the counter translates its address (R247; log 70). -/
def State.barRelease (s : State) : State :=
  match s.h.wait with
  | .bar (some va) g =>
    let t := s.entered va
    (match s.counterAt s.h va with
    | .error d => t.barDenied va d
    | .ok key => if field (s.mem.dword key) 32 32 ≠ g then t.barPass else t)
  | .bar none g => if s.coreBar.gen ≠ g then s.barPass else s
  | _ => s

def execBarRelease (hart : Nat) (s : State) : Out := .next (s.withHart hart State.barRelease)

/-- A BAR that waits is settled before a trap or the group's end (R277): its arrival is withdrawn, or it has completed and
the PC moves past it. -/
def State.settleBar (s : State) : State :=
  match s.h.wait with
  | .bar (some va) g =>
    let t := s.entered va
    (match s.counterAt s.h va with
    | .error d => t.barDenied va d
    | .ok key =>
      let u := t.takeBack s.h key g
      if field (u.mem.dword key) 32 32 = g then u.mapH (fun h => { h with wait := .none }) else u.barPass)
  | .bar none g =>
    let b := s.coreBar
    if b.gen = g then (s.setCoreBar { b with arrived := b.arrived - 1 }).mapH (fun h => { h with wait := .none })
    else s.barPass
  | _ => s

/-- May a scalar instruction that stands behind unretired work go on (R94, R95, R273)? -/
def Hart.orderedReady (h : Hart) : Bool :=
  match h.wait with
  | .ordered => h.convoys.isEmpty && h.squeue.isEmpty
  | .fence k => h.fenceReady k
  | .barDrain _ _ => h.fenceReady .all
  | _ => false

/-- ORDERED_WAIT_RELEASE (R95): the instruction at the PC proceeds. -/
def State.orderedRelease (s : State) : State :=
  if s.h.orderedReady then s.mapH (fun h => { h with wait := .none }) else s

def execOrderedWaitRelease (hart : Nat) (s : State) : Out := .next (s.withHart hart State.orderedRelease)

/-- SSB_COMMIT (R157): the stores of a closed strip are performed as ordinary stores of their agents. -/
def execSsbCommit (hart : Nat) (s : State) : Out := .next (s.withHart hart State.flushClosed)

end Sys2Proof.Machine
end

