-- ==== Sys2Proof/Machine/Loops.lean ====
section
/-!
DEFINITION. Sys2Proof/Machine/Loops.lean: LOOP, LOOPS, LEXIT, LBRK, LPOP (R146 to R148, R153 to R156 of
spec/08_loop_control.md).
-/
namespace Sys2Proof.Machine

/-- May a level of this kind be declared with this LEND (R148)? -/
def Loops.mayDeclare (l : Loops) (rot strip : Bool) (lend : Word) : Bool :=
  l.depth < 4 && !(rot && l.active.any (fun p => p.2.rot)) && !(strip && l.active.any (fun p => p.2.strip))
    && l.here.all (fun p => lend.toNat ≤ p.2.lend.toNat)

/-- The new level (R147). -/
def newLevel (pc lend : Word) (lcnt : Word) (stages : Nat) (rot strip farm : Bool) (depth : BitVec 8) (xa : XReg) : Level :=
  { lbeg := pc + 4, lend := lend, lcnt := lcnt, lflg := mkLflg stages rot strip farm depth xa 0, sp := 1 }

/-- declare of R147. -/
def State.declare (s : State) (strip : Bool) (xa : XReg) (stages : BitVec 3) (rot farm : Bool) (len : BitVec 16) : Out :=
  let lend := s.h.pc + 4 + BitVec.ofNat 64 (4 * len.toNat)
  let l := s.h.loops
  let x := s.h.rx xa
  if len = 0 then s.illegal
  else if !l.mayDeclare rot strip lend then s.trapped .lnest 0
  else if (!strip && x == 0) || (strip && !farm && decide (x.toInt ≤ 0)) then .next (s.arriveAt lend)
  else
    let n := l.depth
    let lv := newLevel s.h.pc lend (if strip then 0 else x) (stages.toNat + 1) rot strip farm l.cdepth xa
    .next (s.mapH (fun h => { h with pc := h.pc + 4, loops := { l.setLevel n lv with
      lact := l.lact ||| BitVec.ofNat 4 (2 ^ n), rrb := if rot then 0 else l.rrb } }))

def execLoop (xa : XReg) (stages : BitVec 3) (rot : Bool) (len : BitVec 16) (s : State) : Out :=
  s.declare false xa stages rot false len
def execLoops (xa : XReg) (stages : BitVec 3) (rot farm : Bool) (len : BitVec 16) (s : State) : Out :=
  s.declare true xa stages rot farm len

/-- LEXIT (R154). -/
def execLexit (kn : BitVec 4) (s : State) : Out :=
  if 12 ≤ kn.toNat then s.illegal
  else
    let k := s.h.k.getD kn.toNat 0
    match (upTo s.h.vln).find? (fun e => k.getLsbD e) with
    | none => .next s.advance
    | some e => match s.h.loops.inner with
      | none => s.trapped .lesc 0
      | some (n, l) =>
        .next (((s.mapH (fun h => { h with xexit := BitVec.ofNat 64 e })).endLevel n).arriveAt l.lend)

/-- Are the `k` innermost levels all at the current depth (R153, R155)? -/
def Loops.mayPop (l : Loops) (k : Nat) : Bool :=
  k ≤ l.depth && (upTo k).all (fun i => (l.level (l.depth - 1 - i)).ldep == l.cdepth)

/-- Pop the innermost levels (R155). -/
def State.pop (s : State) : Nat → State
  | 0 => s
  | k + 1 => (s.endLevel (s.h.loops.depth - 1)).pop k

/-- LBRK (R155): the target must lie in the body of every level that stays active at the current depth. -/
def execLbrk (lv : BitVec 2) (off : BitVec 16) (s : State) : Out :=
  let l := s.h.loops
  let k := lv.toNat + 1
  let t := s.h.pc + offLbrk off
  if !l.mayPop k then s.trapped .lesc 0
  else if !l.here.all (fun p => l.depth - k ≤ p.1 || p.2.inBody t) then s.trapped .lesc 0
  else .next ((s.pop k).mapH (fun h => { h with pc := t }))

/-- LPOP (R155). -/
def execLpop (lv : BitVec 2) (s : State) : Out :=
  let k := lv.toNat + 1
  if !s.h.loops.mayPop k then s.trapped .lesc 0 else .next (s.pop k).advance

end Sys2Proof.Machine
end

