-- ==== Sys2Proof/Machine/Flags.lean ====
section
/-!
DEFINITION. Sys2Proof/Machine/Flags.lean: the floating-point formats, exact values, the one rounding, and every flag
computation (R104, R107 to R110, R119 to R124 of spec/06_vector_registers.md). FFLAGS bits: Table 6.6.
-/
namespace Sys2Proof.Machine

/-- The flags of Table 6.6. -/
def flagNX : BitVec 5 := 1
def flagUF : BitVec 5 := 2
def flagOF : BitVec 5 := 4
def flagDZ : BitVec 5 := 8
def flagNV : BitVec 5 := 16

/-- A flag if a condition holds. -/
def flagIf (c : Bool) (f : BitVec 5) : BitVec 5 := if c then f else 0

/-- A format: widths of the exponent and the fraction (Table 6.4). -/
structure FpFormat where
  ebits : Nat
  fbits : Nat
  deriving DecidableEq, Repr

def binary64 : FpFormat := { ebits := 11, fbits := 52 }
def binary32 : FpFormat := { ebits := 8, fbits := 23 }
def binary16 : FpFormat := { ebits := 5, fbits := 10 }
def bfloat16 : FpFormat := { ebits := 8, fbits := 7 }

/-- The IEEE format of a width. -/
def formatOfWidth (w : Nat) : FpFormat := if w = 64 then binary64 else if w = 32 then binary32 else binary16

/-- The format of a VT (R104). -/
def formatOf (vt : BitVec 11) : FpFormat := if vtFmt vt = 3 then bfloat16 else formatOfWidth (vtSew vt)

/-- Exponent bias. -/
def fpBias (f : FpFormat) : Nat := 2 ^ (f.ebits - 1) - 1

/-- Exponent of the least significant bit of a subnormal. -/
def fpLowest (f : FpFormat) : Int := 1 - (fpBias f : Int) - (f.fbits : Int)

/-- All exponent bits set, fraction 0: infinity without its sign. -/
def fpInfBits (f : FpFormat) : Nat := (2 ^ f.ebits - 1) * 2 ^ f.fbits

/-- The sign bit's weight. -/
def fpSignBit (f : FpFormat) : Nat := 2 ^ (f.ebits + f.fbits)

/-- The canonical NaN (Table 6.4). -/
def fpNaN (f : FpFormat) : Nat := fpInfBits f + 2 ^ (f.fbits - 1)

/-- The value of a floating-point element: a NaN, an infinity, or m * 2^e with a sign. -/
inductive FpValue where
  | nan (signalling : Bool)
  | inf (neg : Bool)
  | fin (neg : Bool) (m : Nat) (e : Int)
  deriving DecidableEq, Repr

/-- Read an element (R104): subnormals as their values. -/
def fpRead (f : FpFormat) (a : Nat) : FpValue :=
  let neg := bitAt a (f.ebits + f.fbits)
  let ex := a / 2 ^ f.fbits % 2 ^ f.ebits
  let fr := a % 2 ^ f.fbits
  if ex = 2 ^ f.ebits - 1 then (if fr = 0 then .inf neg else .nan (!bitAt fr (f.fbits - 1)))
  else if ex = 0 then .fin neg fr (fpLowest f)
  else .fin neg (2 ^ f.fbits + fr) (fpLowest f + (ex : Int) - 1)

/-- Put a sign on the magnitude bits. -/
def fpSigned (f : FpFormat) (neg : Bool) (mag : Nat) : Nat := if neg then fpSignBit f + mag else mag

/-- Does rounding go up? `r` of `2^sh` is cut off below `n`, and `sticky` says that more lies below (R108). -/
def roundsUp (rm : Nat) (neg : Bool) (n r sh : Nat) (sticky : Bool) : Bool :=
  let half := 2 ^ (sh - 1)
  let inexact := r != 0 || sticky
  if rm = 0 then sh != 0 && (half < r || (r == half && (sticky || n % 2 == 1)))
  else if rm = 1 then false
  else if rm = 2 then neg && inexact
  else !neg && inexact

/-- A magnitude cut at exponent `q`: the rounded multiple of 2^q, and whether something was cut off. -/
def roundAt (rm : Nat) (neg : Bool) (m : Nat) (e q : Int) (sticky : Bool) : Nat × Bool :=
  if q ≤ e then
    let n := m * 2 ^ (e - q).toNat
    (n + (roundsUp rm neg n 0 0 sticky).toNat, sticky)
  else
    let sh := (q - e).toNat
    let n := m / 2 ^ sh
    let r := m % 2 ^ sh
    (n + (roundsUp rm neg n r sh sticky).toNat, r != 0 || sticky)

/-- The overflow results of Table 6.5. -/
def fpOverflow (f : FpFormat) (rm : Nat) (neg : Bool) : Nat :=
  let big := fpInfBits f - 1
  let mag := if rm = 0 then fpInfBits f
    else if rm = 1 then big
    else if rm = 2 then (if neg then fpInfBits f else big)
    else (if neg then big else fpInfBits f)
  fpSigned f neg mag

/-- Round m * 2^e (a little more when `sticky`) once, with its flags: tininess after rounding (R108, R109). -/
def fpRound (f : FpFormat) (rm : Nat) (neg : Bool) (m : Nat) (e : Int) (sticky : Bool) : Nat × BitVec 5 :=
  if m = 0 ∧ ¬ sticky then (fpSigned f neg 0, 0)
  else
    let low := fpLowest f
    let q0 := e + ((Nat.log2 m : Nat) : Int) - (f.fbits : Int)
    let q := max q0 low
    let r := roundAt rm neg m e q sticky
    let bits := (q - low).toNat * 2 ^ f.fbits + r.1
    if fpInfBits f ≤ bits then (fpOverflow f rm neg, flagOF ||| flagNX)
    else
      let r0 := roundAt rm neg m e q0 sticky
      let tiny := q0 < low && (decide (q0 < low - 1) || r0.1 < 2 ^ (f.fbits + 1))
      (fpSigned f neg bits, flagIf r.2 flagNX ||| flagIf (tiny && r.2) flagUF)

/-- The sign of a zero sum (R108): −0 under RDN, +0 otherwise; zeros of one sign keep it. -/
def zeroSign (rm : Nat) (signs : List Bool) : Bool :=
  if signs.all id then true else if signs.all (!·) then false else rm == 2

/-- The exact sum of terms, as an integer multiple of 2^e with e the lowest exponent. -/
def exactSum (ts : List (Bool × Nat × Int)) : Int × Int :=
  let e := ts.foldl (fun e t => min e t.2.2) (match ts with | t :: _ => t.2.2 | [] => 0)
  ((ts.map (fun t => (if t.1 then -1 else 1) * ((t.2.1 * 2 ^ (t.2.2 - e).toNat : Nat) : Int))).sum, e)

/-- Round an exact sum of terms once; a sum of zero takes its sign by R108. -/
def roundSum (f : FpFormat) (rm : Nat) (ts : List (Bool × Nat × Int)) : Nat × BitVec 5 :=
  let s := exactSum ts
  if s.1 = 0 then
    (fpSigned f (if ts.all (fun t => t.2.1 == 0) then zeroSign rm (ts.map (·.1)) else rm == 2) 0, 0)
  else fpRound f rm (decide (s.1 < 0)) s.1.natAbs s.2 false

/-- Is a value a NaN, a signalling NaN, an infinity, a zero? -/
def FpValue.isNan : FpValue → Bool
  | .nan _ => true
  | _ => false
def FpValue.isSnan : FpValue → Bool
  | .nan b => b
  | _ => false
def FpValue.isInf : FpValue → Bool
  | .inf _ => true
  | _ => false
def FpValue.isZero : FpValue → Bool
  | .fin _ 0 _ => true
  | _ => false

/-- Sign of a value that is no NaN. -/
def FpValue.neg : FpValue → Bool
  | .nan _ => false
  | .inf s => s
  | .fin s _ _ => s

/-- The value with its sign turned. -/
def FpValue.turned : FpValue → FpValue
  | .nan b => .nan b
  | .inf s => .inf (!s)
  | .fin s m e => .fin (!s) m e

/-- The canonical NaN with NV if `nv`. -/
def nanResult (f : FpFormat) (nv : Bool) : Nat × BitVec 5 := (fpNaN f, flagIf nv flagNV)

/-- a + b (R119). -/
def fpAddV (f : FpFormat) (rm : Nat) (a b : FpValue) : Nat × BitVec 5 :=
  match a, b with
  | .nan x, y => nanResult f (x || y.isSnan)
  | x, .nan y => nanResult f (y || x.isSnan)
  | .inf x, .inf y => if x = y then (fpSigned f x (fpInfBits f), 0) else nanResult f true
  | .inf x, _ => (fpSigned f x (fpInfBits f), 0)
  | _, .inf y => (fpSigned f y (fpInfBits f), 0)
  | .fin x m e, .fin y n g => roundSum f rm [(x, m, e), (y, n, g)]

/-- The exact product of two values that are no NaN; `none` for 0 * infinity. -/
def fpProduct (a b : FpValue) : Option FpValue :=
  match a, b with
  | .fin x m e, .fin y n g => some (.fin (x != y) (m * n) (e + g))
  | x, y => if x.isZero || y.isZero then none else some (.inf (x.neg != y.neg))

/-- a * b (R119). -/
def fpMulV (f : FpFormat) (rm : Nat) (a b : FpValue) : Nat × BitVec 5 :=
  if a.isNan || b.isNan then nanResult f (a.isSnan || b.isSnan)
  else match fpProduct a b with
    | none => nanResult f true
    | some (.fin s m e) => fpRound f rm s m e false
    | some p => (fpSigned f p.neg (fpInfBits f), 0)

/-- c + a * b with one rounding (R119); 0 * infinity raises NV whatever the addend. -/
def fpFmaV (f : FpFormat) (rm : Nat) (a b c : FpValue) : Nat × BitVec 5 :=
  let snan := a.isSnan || b.isSnan || c.isSnan
  if a.isNan || b.isNan then nanResult f snan
  else match fpProduct a b with
    | none => nanResult f true
    | some p => if c.isNan then nanResult f snan else fpAddV f rm p c

/-- a / b (R119). -/
def fpDivV (f : FpFormat) (rm : Nat) (a b : FpValue) : Nat × BitVec 5 :=
  if a.isNan || b.isNan then nanResult f (a.isSnan || b.isSnan)
  else
    let s := a.neg != b.neg
    match a, b with
    | .inf _, .inf _ => nanResult f true
    | .inf _, _ => (fpSigned f s (fpInfBits f), 0)
    | _, .inf _ => (fpSigned f s 0, 0)
    | .fin _ m e, .fin _ n g =>
      if n = 0 then (if m = 0 then nanResult f true else (fpSigned f s (fpInfBits f), flagDZ))
      else if m = 0 then (fpSigned f s 0, 0)
      else
        let k := 2 * f.fbits + 8
        fpRound f rm s (m * 2 ^ k / n) (e - g - (k : Int)) (m * 2 ^ k % n != 0)
    | _, _ => nanResult f true

/-- Integer square root by bits: the largest r + i with its square at most m, i below 2^n. -/
def isqrtFrom (m : Nat) : Nat → Nat → Nat
  | 0, r => r
  | n + 1, r => isqrtFrom m n (if (r + 2 ^ n) * (r + 2 ^ n) ≤ m then r + 2 ^ n else r)

/-- Integer square root. -/
def isqrt (m : Nat) : Nat := isqrtFrom m (Nat.log2 m / 2 + 1) 0

/-- The square root (R119). -/
def fpSqrtV (f : FpFormat) (rm : Nat) (a : FpValue) : Nat × BitVec 5 :=
  match a with
  | .nan s => nanResult f s
  | .inf true => nanResult f true
  | .inf false => (fpInfBits f, 0)
  | .fin s m e =>
    if m = 0 then (fpSigned f s 0, 0)
    else if s then nanResult f true
    else
      let k0 := 2 * f.fbits + 8
      let k := if (e - (k0 : Int)) % 2 = 0 then k0 else k0 + 1
      let v := m * 2 ^ k
      let r := isqrt v
      fpRound f rm false r ((e - (k : Int)) / 2) (r * r != v)

/-- Compare two values that are no NaN: −0 equals +0. -/
def fpCompare (a b : FpValue) : Ordering :=
  match a, b with
  | .inf x, .inf y => if x = y then .eq else if x then .lt else .gt
  | .inf x, _ => if x then .lt else .gt
  | _, .inf y => if y then .gt else .lt
  | .fin x m e, .fin y n g =>
    let s := exactSum [(x, m, e), (!y, n, g)]
    if s.1 = 0 then .eq else if s.1 < 0 then .lt else .gt
  | _, _ => .eq

/-- Is a less than b, with −0 below +0 (R120, R140)? -/
def fpLess (a b : FpValue) : Bool :=
  match fpCompare a b with
  | .lt => true
  | .gt => false
  | .eq => a.neg && !b.neg

/-- VFMIN and VFMAX (R120), on the elements' bits. -/
def fpMinMax (f : FpFormat) (isMax : Bool) (a b : Nat) : Nat × BitVec 5 :=
  let x := fpRead f a
  let y := fpRead f b
  let nv := flagIf (x.isSnan || y.isSnan) flagNV
  if x.isNan && y.isNan then (fpNaN f, nv)
  else if x.isNan then (b, nv)
  else if y.isNan then (a, nv)
  else (if fpLess x y != isMax then a else b, nv)

/-- VFSGN (R121): |a| with a sign taken from b. DESIGN CHOICE, log 62: where a is numeric and b is a NaN, "the sign
of b" is b's sign bit as it stands, although R107 carries no NaN sign to a result. -/
def fpSign (f : FpFormat) (mode a b : Nat) : Nat :=
  if (fpRead f a).isNan then fpNaN f
  else
    let sa := bitAt a (f.ebits + f.fbits)
    let sb := bitAt b (f.ebits + f.fbits)
    fpSigned f (if mode = 0 then sb else if mode = 1 then !sb else sa != sb) (a % fpSignBit f)

/-- VFCLASS (Table 6.10). -/
def fpClass (f : FpFormat) (a : Nat) : Nat :=
  match fpRead f a with
  | .nan s => if s then 2 ^ 8 else 2 ^ 9
  | .inf s => if s then 2 ^ 0 else 2 ^ 7
  | .fin s m _ =>
    if m = 0 then (if s then 2 ^ 3 else 2 ^ 4)
    else if m < 2 ^ f.fbits then (if s then 2 ^ 2 else 2 ^ 5)
    else (if s then 2 ^ 1 else 2 ^ 6)

/-- A floating-point value rounded to an integer of width `w` (R124). The range is tested on the rounded integer (DESIGN CHOICE, log 54). -/
def fpToInt (f : FpFormat) (rm : Nat) (signed : Bool) (w a : Nat) : Nat × BitVec 5 :=
  let lo : Int := if signed then -(2 ^ (w - 1) : Int) else 0
  let hi : Int := if signed then (2 ^ (w - 1) : Int) - 1 else (2 ^ w : Int) - 1
  match fpRead f a with
  | .nan _ => (0, flagNV)
  | .inf s => (ofInt w (if s then lo else hi), flagNV)
  | .fin s m e =>
    let r := roundAt rm s m e 0 false
    let v : Int := if s then -(r.1 : Int) else r.1
    if v < lo then (ofInt w lo, flagNV)
    else if hi < v then (ofInt w hi, flagNV)
    else (ofInt w v, flagIf r.2 flagNX)

/-- An integer rounded to a format (R124). -/
def fpOfInt (f : FpFormat) (rm : Nat) (v : Int) : Nat × BitVec 5 := fpRound f rm (decide (v < 0)) v.natAbs 0 false

/-- A value of one format rounded to another (R124): a NaN is canonical; a signalling one raises NV (DESIGN CHOICE, log 53: R107 to R109 name
no flag for it). -/
def fpConvert (src dst : FpFormat) (rm a : Nat) : Nat × BitVec 5 :=
  match fpRead src a with
  | .nan s => nanResult dst s
  | .inf s => (fpSigned dst s (fpInfBits dst), 0)
  | .fin s m e => fpRound dst rm s m e false

/-- a + b on elements. -/
def fpAdd (f : FpFormat) (rm a b : Nat) : Nat × BitVec 5 := fpAddV f rm (fpRead f a) (fpRead f b)

/-- A value passed on: a NaN becomes canonical (R107). -/
def fpPass (f : FpFormat) (a : Nat) : Nat := if (fpRead f a).isNan then fpNaN f else a

end Sys2Proof.Machine
end

