-- ==== Sys2Proof/Machine/Context.lean ====
section
/-!
DEFINITION. Sys2Proof/Machine/Context.lean: what the slots of one convoy read and write before it commits (R26, R27 of
spec/02_encoding.md; R98, R99, R113 of spec/06_vector_registers.md; R129, R132 of spec/07_masks_and_cross_element.md).
-/
namespace Sys2Proof.Machine

/-- A convoy under execution. `s` is the state at its place in program order, which its reads of memory, X registers and
CSRs see (R27, R28); `t` carries the effects of its slots so far; `v` and `k` are the registers as later slots read them
(R26), by physical number; `vw`, `kw` name those written; `xw` holds X writes, `fl` flags. `limit` ends the element
operations that an abort completion cuts short (R296). -/
structure Ctx where
  s   : State
  t   : State
  cv  : Convoy
  pos : Nat
  v   : List VReg
  k   : List (BitVec 4096)
  vw  : BitVec 48
  kw  : BitVec 12
  xw  : List (XReg × Word)
  fl  : BitVec 5
  limit : Option Nat

/-- Answer of a slot. -/
abbrev Slot := Except Stop Ctx

/-- The context of a convoy before its first slot. -/
def Ctx.start (s : State) (cv : Convoy) : Ctx :=
  { s := s, t := s, cv := cv, pos := 0, v := s.h.v, k := s.h.k, vw := 0, kw := 0, xw := [], fl := 0, limit := none }

/-- VL, SEW, VT, X registers as the convoy reads them (R28). -/
def Ctx.vl (c : Ctx) : Nat := c.s.h.vln
def Ctx.sew (c : Ctx) : Nat := c.s.h.sew
def Ctx.vt (c : Ctx) : BitVec 11 := c.s.h.vt
def Ctx.rx (c : Ctx) (r : XReg) : Word := c.s.h.rx r

/-- Is the FMT one whose integers are signed (R105)? -/
def fmtSigned (vt : BitVec 11) : Bool := vtFmt vt == 0 || vtFmt vt == 4

/-- Address of the lower half of the offending word (R29). -/
def Ctx.wordAddress (c : Ctx) : Word := c.cv.pc + BitVec.ofNat 64 (4 + 8 * c.pos)

/-- A trap of the convoy: EPC is the header (R27). -/
def Ctx.trapInfo (c : Ctx) (cause : Cause) (v : Word) (e l : Nat) : TrapInfo :=
  { cause := cause, bp := 0, epc := c.cv.pc, eval := v, eelem := e, elane := l }

/-- The lane of element `e` at the convoy's SEW, by the GRANT that it issued under (R65). -/
def Ctx.lane (c : Ctx) (e : Nat) : Nat := laneOf c.cv.grant c.sew e

/-- Refuse with a cause that names no element. -/
def Ctx.refuse (c : Ctx) (cause : Cause) (v : Word) : Slot := .error (.trap (c.trapInfo cause v 0 0))

/-- Refuse with a cause that names element `e` (R65). -/
def Ctx.refuseAt (c : Ctx) (cause : Cause) (v : Word) (e : Nat) : Slot :=
  .error (.trap (c.trapInfo cause v e (c.lane e)))

/-- The register that name `n` denotes, as the slot reads it (R26, R152). -/
def Ctx.reg (c : Ctx) (n : Nat) : VReg := vname c.s.h.loops c.v n

/-- Element `e` of name `n` at width `w`. -/
def Ctx.elem (c : Ctx) (w n e : Nat) : Nat := (c.reg n).elem w e

/-- Bit `e` of mask `n`. -/
def Ctx.mask (c : Ctx) (n e : Nat) : Bool := (c.k.getD n 0).getLsbD e

/-- Is element `e` active (R24)? -/
def Ctx.active (c : Ctx) (v : VArgs) (e : Nat) : Bool := v.active c.k e

/-- The second operand b(e) at SEW (R23, R113). -/
def Ctx.second (c : Ctx) (v : VArgs) (e : Nat) : Nat := secondOf v c.s.h.loops c.v (c.rx v.xs) c.sew e

/-- Write register name `n`: `m` elements of width `w` (R99); nothing at VL = 0 (R63). -/
def Ctx.putV (c : Ctx) (n w m : Nat) (f : Nat → Nat) : Ctx :=
  if c.vl = 0 then c
  else
    let p := c.s.h.loops.physical n
    { c with v := c.v.set p (VReg.build w m f), vw := c.vw ||| BitVec.ofNat 48 (2 ^ p) }

/-- Write mask `n`: bits below VL by `f`, the others 0 (R129); nothing at VL = 0 (R63). -/
def Ctx.putK (c : Ctx) (n : Nat) (f : Nat → Bool) : Ctx :=
  if c.vl = 0 then c
  else { c with k := c.k.set n (buildMask c.vl f), kw := c.kw ||| BitVec.ofNat 12 (2 ^ n) }

/-- Is an element operation on element `e` performed (R296)? -/
def Ctx.reaches (c : Ctx) (e : Nat) : Bool := match c.limit with | none => true | some n => e < n

/-- Write X[r] at retirement (R132). -/
def Ctx.putX (c : Ctx) (r : XReg) (v : Word) : Ctx := { c with xw := c.xw ++ [(r, v)] }

/-- OR flags into FFLAGS at retirement (R110). -/
def Ctx.flag (c : Ctx) (f : BitVec 5) : Ctx := { c with fl := c.fl ||| f }

/-- The OR of the flags of the active elements below VL. -/
def Ctx.flagsOf (c : Ctx) (v : VArgs) (f : Nat → BitVec 5) : BitVec 5 :=
  ((upTo c.vl).filter (c.active v)).foldl (fun a e => a ||| f e) 0

/-- R113 and R99 at destination width `w`: the active elements below VL receive `op e`, the others their old value. -/
def Ctx.each (c : Ctx) (v : VArgs) (w : Nat) (op : Nat → Nat) : Ctx :=
  c.putV v.vd.toNat w c.vl (fun e => if c.active v e then op e else c.elem w v.vd.toNat e)

/-- R113 with flags. -/
def Ctx.eachF (c : Ctx) (v : VArgs) (w : Nat) (op : Nat → Nat × BitVec 5) : Ctx :=
  (c.each v w (fun e => (op e).1)).flag (c.flagsOf v (fun e => (op e).2))

/-- R116: a test writes mask Kd, named in the vd field. -/
def Ctx.test (c : Ctx) (v : VArgs) (p : Nat → Bool) : Ctx :=
  c.putK v.vd.toNat (fun e => if c.active v e then p e else c.mask v.vd.toNat e)

/-- Change the state that carries the effects. -/
def Ctx.effect (c : Ctx) (f : State → State) : Ctx := { c with t := f c.t }

/-- What an instruction has noted on the memory at the convoy's place (`State.note`) is performed at its retirement. -/
def Ctx.performNoted (c : Ctx) (r : State) : Ctx := c.effect (fun t => r.h.closed.foldl State.strikeStore t.beforeAtomic)

/-- Commit (R27, R99, R101, R110): registers with tags, masks, X registers, flags, dirty bits and every other effect. -/
def Ctx.commit (c : Ctx) : State :=
  c.t.mapH (fun h => { c.xw.foldl (fun h p => h.wx p.1 p.2) h with
    v := c.v, k := c.k, fflags := h.fflags ||| c.fl, vdirty := h.vdirty ||| c.vw, kdirty := h.kdirty ||| c.kw,
    vstate := if (c.vw ≠ 0 ∨ c.kw ≠ 0) ∧ (h.vstate = 1 ∨ h.vstate = 2) then 3 else h.vstate })

/-- A vector instruction: its refusals with ILL at the convoy (R333 step 11), whether they name element 0 (R170), and what
its slot does. -/
structure VOp where
  ill   : VArgs → State → Bool
  named : Bool := false
  run   : VArgs → Ctx → Slot

/-- First element of width `w` that does not fit a register. -/
def firstOver (w : Nat) : Nat := 8192 / w

/-- R114: refuse with SHAPE when VL elements of width `w` pass 8,192 bits, whatever the mask (DESIGN CHOICE, log 55: the rule speaks of VL
only). -/
def Ctx.fitting (c : Ctx) (w : Nat) (k : Ctx → Slot) : Slot :=
  if 8192 < c.vl * w then c.refuseAt .shape 0 (firstOver w) else k c

end Sys2Proof.Machine
end

