-- ==== Sys2Proof/Machine/Valu.lean ====
section
/-!
DEFINITION. Sys2Proof/Machine/Valu.lean: integer and free-class instructions of VALU-A and VALU-B (R112 to R118 of
spec/06_vector_registers.md).
-/
namespace Sys2Proof.Machine

/-- FMT outside the integer class (R112): INT, UINT, BSI. -/
def notInteger (_ : VArgs) (s : State) : Bool := vtFmt s.h.vt == 2 || vtFmt s.h.vt == 3

/-- FMT outside the floating-point class (R112): FP, BF16. -/
def notFloat (_ : VArgs) (s : State) : Bool := !(vtFmt s.h.vt == 2 || vtFmt s.h.vt == 3)

/-- The free class (R112). -/
def anyFmt (_ : VArgs) (_ : State) : Bool := false

/-- An integer operation: width, a, b, old vd. -/
abbrev IntFn := Nat → Nat → Nat → Nat → Nat

/-- An integer instruction of Table 6.8. -/
def intOp (f : IntFn) : VOp :=
  { ill := notInteger
    run := fun v c => .ok (c.each v c.sew (fun e =>
      f c.sew (c.elem c.sew v.vs1.toNat e) (c.second v e) (c.elem c.sew v.vd.toNat e))) }

/-- Clamp to a range. -/
def clampInt (lo hi v : Int) : Int := if v < lo then lo else if hi < v then hi else v

/-- Clamp to the signed range of width `w` (R105, R115). -/
def clampSigned (w : Nat) (v : Int) : Nat := ofInt w (clampInt (-(2 ^ (w - 1) : Int)) ((2 ^ (w - 1) : Int) - 1) v)

/-- Clamp to the unsigned range. -/
def clampUnsigned (w : Nat) (v : Int) : Nat := ofInt w (clampInt 0 ((2 ^ w : Int) - 1) v)

def vAdd : IntFn := fun w a b _ => (a + b) % 2 ^ w
def vSub : IntFn := fun w a b _ => (a + 2 ^ w - b) % 2 ^ w
def vRsub : IntFn := fun w a b _ => (b + 2 ^ w - a) % 2 ^ w
def vAnd : IntFn := fun _ a b _ => a &&& b
def vOr : IntFn := fun _ a b _ => a ||| b
def vXor : IntFn := fun _ a b _ => a ^^^ b
def vSll : IntFn := fun w a b _ => a * 2 ^ (b % w) % 2 ^ w
def vSrl : IntFn := fun w a b _ => a / 2 ^ (b % w)
def vSra : IntFn := fun w a b _ => ofInt w (toSigned w a / 2 ^ (b % w))
def vMin : IntFn := fun w a b _ => if toSigned w a ≤ toSigned w b then a else b
def vMax : IntFn := fun w a b _ => if toSigned w a ≤ toSigned w b then b else a
def vMinu : IntFn := fun _ a b _ => if a ≤ b then a else b
def vMaxu : IntFn := fun _ a b _ => if a ≤ b then b else a
def vAdds : IntFn := fun w a b _ => clampSigned w (toSigned w a + toSigned w b)
def vSubs : IntFn := fun w a b _ => clampSigned w (toSigned w a - toSigned w b)
def vAddus : IntFn := fun w a b _ => clampUnsigned w ((a : Int) + (b : Int))
def vMul : IntFn := fun w a b _ => a * b % 2 ^ w
def vMulh : IntFn := fun w a b _ => ofInt w (toSigned w a * toSigned w b / 2 ^ w)
def vMulhu : IntFn := fun w a b _ => a * b / 2 ^ w
def vMacc : IntFn := fun w a b d => (d + a * b) % 2 ^ w

def vaddOp : VOp := intOp vAdd
def vsubOp : VOp := intOp vSub
def vrsubOp : VOp := intOp vRsub
def vandOp : VOp := intOp vAnd
def vorOp : VOp := intOp vOr
def vxorOp : VOp := intOp vXor
def vsllOp : VOp := intOp vSll
def vsrlOp : VOp := intOp vSrl
def vsraOp : VOp := intOp vSra
def vminOp : VOp := intOp vMin
def vmaxOp : VOp := intOp vMax
def vminuOp : VOp := intOp vMinu
def vmaxuOp : VOp := intOp vMaxu
def vaddsOp : VOp := intOp vAdds
def vsubsOp : VOp := intOp vSubs
def vaddusOp : VOp := intOp vAddus
def vmulOp : VOp := intOp vMul
def vmulhOp : VOp := intOp vMulh
def vmulhuOp : VOp := intOp vMulhu
def vmaccOp : VOp := intOp vMacc

/-! ### Compares (R116) -/

/-- A compare: width, a, b. -/
abbrev CmpFn := Nat → Nat → Nat → Bool

/-- A compare that writes Kd. -/
def cmpOp (f : CmpFn) : VOp :=
  { ill := notInteger
    run := fun v c => .ok (c.test v (fun e => f c.sew (c.elem c.sew v.vs1.toNat e) (c.second v e))) }

def vcmpeqOp : VOp := cmpOp (fun _ a b => a == b)
def vcmpneOp : VOp := cmpOp (fun _ a b => a != b)
def vcmpltOp : VOp := cmpOp (fun w a b => toSigned w a < toSigned w b)
def vcmpltuOp : VOp := cmpOp (fun _ a b => a < b)
def vcmpleOp : VOp := cmpOp (fun w a b => toSigned w a ≤ toSigned w b)
def vcmpleuOp : VOp := cmpOp (fun _ a b => a ≤ b)
def vcmpgtOp : VOp := cmpOp (fun w a b => toSigned w b < toSigned w a)

/-! ### Moves and widths (R117, R118) -/

def vmvOp : VOp :=
  { ill := anyFmt, run := fun v c => .ok (c.each v c.sew (fun e => c.elem c.sew v.vs1.toNat e)) }

def vidOp : VOp := { ill := anyFmt, run := fun v c => .ok (c.each v c.sew (fun e => e % 2 ^ c.sew)) }

/-- VMERGE writes every element below VL. -/
def vmergeOp : VOp :=
  { ill := anyFmt
    run := fun v c => .ok (c.putV v.vd.toNat c.sew c.vl (fun e =>
      if c.active v e then c.second v e else c.elem c.sew v.vs1.toNat e)) }

/-- SEW = 64 has no double width (R118). -/
def noDouble (v : VArgs) (s : State) : Bool := notInteger v s || s.h.sew == 64

def vwidenOp : VOp :=
  { ill := noDouble
    run := fun v c => c.fitting (2 * c.sew) (fun c => .ok (c.each v (2 * c.sew) (fun e =>
      let a := c.elem c.sew v.vs1.toNat e
      if fmtSigned c.vt then ofInt (2 * c.sew) (toSigned c.sew a) else a))) }

/-- VNARROW with and without SAT. -/
def narrowElem (vt : BitVec 11) (sat : Bool) (w a : Nat) : Nat :=
  if !sat then a % 2 ^ w
  else if fmtSigned vt then clampSigned w (toSigned (2 * w) a)
  else clampUnsigned w a

def vnarrowOp : VOp :=
  { ill := noDouble
    run := fun v c => c.fitting (2 * c.sew) (fun c => .ok (c.each v c.sew (fun e =>
      narrowElem c.vt (bitAt v.ext.toNat 0) c.sew (c.elem (2 * c.sew) v.vs1.toNat e)))) }

end Sys2Proof.Machine
end

