-- ==== Sys2Proof/Machine/ValuFp.lean ====
section
/-!
DEFINITION. Sys2Proof/Machine/ValuFp.lean: floating-point and block-scaling instructions of VALU-A and VALU-B (R119 to
R128 of spec/06_vector_registers.md).
-/
namespace Sys2Proof.Machine

/-- A floating-point operation: format, rounding mode, a, b, c. -/
abbrev FpFn := FpFormat → Nat → Nat → Nat → Nat → Nat × BitVec 5

/-- A floating-point instruction of Table 6.9. -/
def fpOp (f : FpFn) : VOp :=
  { ill := notFloat
    run := fun v c => .ok (c.eachF v c.sew (fun e =>
      f (formatOf c.vt) (vtRm c.vt) (c.elem c.sew v.vs1.toNat e) (c.second v e) (c.elem c.sew v.vd.toNat e))) }

def fSub : FpFn := fun f rm a b _ => fpAddV f rm (fpRead f a) (fpRead f b).turned
def fMul : FpFn := fun f rm a b _ => fpMulV f rm (fpRead f a) (fpRead f b)
def fDiv : FpFn := fun f rm a b _ => fpDivV f rm (fpRead f a) (fpRead f b)
def fSqrt : FpFn := fun f rm a _ _ => fpSqrtV f rm (fpRead f a)
def fMa : FpFn := fun f rm a b c => fpFmaV f rm (fpRead f a) (fpRead f b) (fpRead f c)
def fMs : FpFn := fun f rm a b c => fpFmaV f rm (fpRead f a) (fpRead f b) (fpRead f c).turned
def fNma : FpFn := fun f rm a b c => fpFmaV f rm (fpRead f a).turned (fpRead f b) (fpRead f c)

def vfaddOp : VOp := fpOp (fun f rm a b _ => fpAdd f rm a b)
def vfsubOp : VOp := fpOp fSub
def vfmulOp : VOp := fpOp fMul
def vfdivOp : VOp := fpOp fDiv
def vfsqrtOp : VOp := fpOp fSqrt
def vfmaOp : VOp := fpOp fMa
def vfmsOp : VOp := fpOp fMs
def vfnmaOp : VOp := fpOp fNma
def vfminOp : VOp := fpOp (fun f _ a b _ => fpMinMax f false a b)
def vfmaxOp : VOp := fpOp (fun f _ a b _ => fpMinMax f true a b)

/-- VFSGN's mode (R121), in the modifiers of the word. -/
def vfsgnOp : VOp :=
  { ill := notFloat
    run := fun v c => .ok (c.each v c.sew (fun e =>
      fpSign (formatOf c.vt) (v.ext.toNat % 4) (c.elem c.sew v.vs1.toNat e) (c.second v e))) }

/-! ### Compares (R122) -/

/-- A floating-point compare: holds when no operand is a NaN and the order is one of `ok`; `quiet` says that a quiet NaN
raises nothing. -/
def fpCmpOp (quiet : Bool) (ok : Ordering → Bool) : VOp :=
  { ill := notFloat
    run := fun v c =>
      let a := fun e => fpRead (formatOf c.vt) (c.elem c.sew v.vs1.toNat e)
      let b := fun e => fpRead (formatOf c.vt) (c.second v e)
      .ok ((c.test v (fun e => !(a e).isNan && !(b e).isNan && ok (fpCompare (a e) (b e)))).flag
        (c.flagsOf v (fun e =>
          flagIf (if quiet then (a e).isSnan || (b e).isSnan else (a e).isNan || (b e).isNan) flagNV))) }

def vfcmpeqOp : VOp := fpCmpOp true (· == .eq)
def vfcmpltOp : VOp := fpCmpOp false (· == .lt)
def vfcmpleOp : VOp := fpCmpOp false (· != .gt)

def vfclassOp : VOp :=
  { ill := notFloat
    run := fun v c => .ok (c.each v c.sew (fun e => fpClass (formatOf c.vt) (c.elem c.sew v.vs1.toNat e))) }

/-! ### Conversions (R124) -/

/-- The VT that a conversion requires (Table 6.11). -/
def cvtOk (vt : BitVec 11) (cv : Nat) : Bool :=
  if cv ≤ 3 then vtFmt vt == 2
  else if cv ≤ 5 then vtFmt vt == 2 && (vtSew vt == 16 || vtSew vt == 32)
  else cv ≤ 7 && vtFmt vt == 3

/-- Source and destination widths of a conversion at SEW `w`. -/
def cvtSource (cv w : Nat) : Nat := if cv = 5 ∨ cv = 7 then 2 * w else w
def cvtDest (cv w : Nat) : Nat := if cv = 4 ∨ cv = 6 then 2 * w else w

/-- One conversion. -/
def cvtElem (cv w rm a : Nat) : Nat × BitVec 5 :=
  let f := formatOfWidth w
  let g := formatOfWidth (2 * w)
  if cv = 0 then fpToInt f rm true w a
  else if cv = 1 then fpToInt f rm false w a
  else if cv = 2 then fpOfInt f rm (toSigned w a)
  else if cv = 3 then fpOfInt f rm (a : Int)
  else if cv = 4 then fpConvert f g rm a
  else if cv = 5 then fpConvert g f rm a
  else if cv = 6 then fpConvert bfloat16 binary32 rm a
  else fpConvert binary32 bfloat16 rm a

def vfcvtOp : VOp :=
  { ill := fun v s => !cvtOk s.h.vt (v.ext.toNat % 16)
    run := fun v c =>
      let cv := v.ext.toNat % 16
      c.fitting (max (cvtSource cv c.sew) (cvtDest cv c.sew)) (fun c =>
        .ok (c.eachF v (cvtDest cv c.sew) (fun e =>
          cvtElem cv c.sew (vtRm c.vt) (c.elem (cvtSource cv c.sew) v.vs1.toNat e)))) }

/-! ### Block scaling (R125 to R128) -/

/-- Width and format of the floating-point side: W16. -/
def bsWidth (v : VArgs) : Nat := if bitAt v.ext.toNat 0 then 16 else 32
def bsFormat (v : VArgs) : FpFormat := if bitAt v.ext.toNat 0 then bfloat16 else binary32

/-- Number of blocks of a vector. -/
def Ctx.blocks (c : Ctx) : Nat := ceilDiv c.vl (vtBlock c.vt)

/-- The checks of R125: SHAPE with EELEM 0. -/
def Ctx.blockFit (c : Ctx) (v : VArgs) (k : Slot) : Slot :=
  if 8192 < c.vl * bsWidth v ∨ 1024 < c.blocks then c.refuse .shape 0 else k

/-- FMT must be BSI. -/
def notBsi (_ : VArgs) (s : State) : Bool := vtFmt s.h.vt != 4

/-- floor(log2 |x|) of a finite non-zero value. -/
def fpExponent (m : Nat) (e : Int) : Int := ((Nat.log2 m : Nat) : Int) + e

/-- The scale of one block (R126). -/
def blockScale (f : FpFormat) (xs : List Nat) : Nat :=
  let vs := xs.map (fpRead f)
  if vs.any (fun x => x.isNan || x.isInf) then 255
  else
    let es := vs.filterMap (fun x => match x with
      | .fin _ m e => if m = 0 then none else some (fpExponent m e)
      | _ => none)
    match es with
    | [] => 0
    | e :: l => (max 1 (l.foldl max e + 127)).toNat

def vbscaleOp : VOp :=
  { ill := notBsi
    run := fun v c => c.blockFit v
      (let b := vtBlock c.vt
       .ok (c.putV v.vd.toNat 8 c.blocks (fun j =>
        blockScale (bsFormat v) ((upTo (min c.vl ((j + 1) * b) - j * b)).map (fun i =>
          c.elem (bsWidth v) v.vs1.toNat (j * b + i)))))) }

/-- One mantissa (R127). -/
def quantElem (f : FpFormat) (w s a : Nat) : Nat × BitVec 5 :=
  if s = 0 ∨ s = 255 then (0, 0)
  else match fpRead f a with
    | .nan _ => (0, flagNV)
    | .inf _ => (0, flagNV)
    | .fin neg m e =>
      let r := roundAt 0 neg m (e - ((s : Int) - 127 - ((w : Int) - 2))) 0 false
      let top := 2 ^ (w - 1) - 1
      let q := min r.1 top
      (ofInt w (if neg then -(q : Int) else q), flagIf (r.2 || q != r.1) flagNX)

def vbquantOp : VOp :=
  { ill := notBsi
    run := fun v c => c.blockFit v (.ok (c.eachF v c.sew (fun e =>
      quantElem (bsFormat v) c.sew (c.elem 8 v.vs2.toNat (e / vtBlock c.vt)) (c.elem (bsWidth v) v.vs1.toNat e)))) }

/-- The value of a block-scaled mantissa (R106), rounded to a format (R128). -/
def dequantElem (f : FpFormat) (rm w s a : Nat) : Nat × BitVec 5 :=
  if s = 0 then (0, 0)
  else if s = 255 then (fpNaN f, 0)
  else
    let m := toSigned w a
    if m = 0 then (0, 0) else fpRound f rm (decide (m < 0)) m.natAbs ((s : Int) - 127 - ((w : Int) - 2)) false

def vbdeqOp : VOp :=
  { ill := notBsi
    run := fun v c => c.blockFit v (.ok (c.eachF v (bsWidth v) (fun e =>
      dequantElem (bsFormat v) (vtRm c.vt) c.sew (c.elem 8 v.vs2.toNat (e / vtBlock c.vt))
        (c.elem c.sew v.vs1.toNat e)))) }

end Sys2Proof.Machine
end

