-- ==== Sys2Proof/Machine/Vperm.lean ====
section
/-!
DEFINITION. Sys2Proof/Machine/Vperm.lean: mask logic, moves, slides, permutations and reductions of VPERM (R129 to R141 of
spec/07_masks_and_cross_element.md).
-/
namespace Sys2Proof.Machine

/-! ### Mask logic (R134, R135) -/

/-- Two masks in, one out. -/
def kk2Op (f : Bool → Bool → Bool) : VOp :=
  { ill := anyFmt
    run := fun v c => .ok (c.putK v.vd.toNat (fun e => f (c.mask v.vs1.toNat e) (c.mask v.vs2.toNat e))) }

/-- One mask in, one out. -/
def kk1Op (f : Bool → Bool) : VOp :=
  { ill := anyFmt
    run := fun v c => .ok (c.putK v.vd.toNat (fun e => f (c.mask v.vs1.toNat e))) }

def kandOp : VOp := kk2Op (fun a b => a && b)
def korOp : VOp := kk2Op (fun a b => a || b)
def kxorOp : VOp := kk2Op (fun a b => a != b)
def kandnOp : VOp := kk2Op (fun a b => a && !b)
def knotOp : VOp := kk1Op (fun a => !a)
def kmvOp : VOp := kk1Op (fun a => a)

def ksetnOp : VOp :=
  { ill := anyFmt
    run := fun v c => .ok (c.putK v.vd.toNat (fun e => e < (c.rx v.xs).toNat)) }

/-- The elements below VL that are active and set in Ka. -/
def Ctx.chosen (c : Ctx) (v : VArgs) : List Nat :=
  (upTo c.vl).filter (fun e => c.active v e && c.mask v.vs1.toNat e)

def kpopcOp : VOp :=
  { ill := anyFmt
    run := fun v c => .ok (if c.vl = 0 then c else c.putX v.xs (BitVec.ofNat 64 (c.chosen v).length)) }

def kfirstOp : VOp :=
  { ill := anyFmt
    run := fun v c => .ok (if c.vl = 0 then c
      else c.putX v.xs (match (c.chosen v).head? with | some e => BitVec.ofNat 64 e | none => BitVec.allOnes 64)) }

/-! ### Moves (R136) -/

def vmvxsOp : VOp :=
  { ill := anyFmt
    run := fun v c => .ok (if c.vl = 0 then c
      else
        let a := c.elem c.sew v.vs1.toNat 0
        c.putX v.xs (if fmtSigned c.vt then BitVec.ofInt 64 (toSigned c.sew a) else BitVec.ofNat 64 a)) }

def vmvsxOp : VOp :=
  { ill := anyFmt
    run := fun v c => .ok (c.putV v.vd.toNat c.sew c.vl (fun e =>
      if e = 0 then (c.rx v.xs).toNat % 2 ^ c.sew else c.elem c.sew v.vd.toNat e)) }

/-! ### Slides and permutation (R137, R138) -/

/-- The offset of a slide. -/
def Ctx.offset (c : Ctx) (v : VArgs) : Nat := if v.form = formVI then v.imm16.toNat else (c.rx v.xs).toNat

/-- Number of elements a register holds at the SEW. -/
def Ctx.capacity (c : Ctx) : Nat := 8192 / c.sew

def vslupOp : VOp :=
  { ill := anyFmt
    run := fun v c =>
      let d := c.offset v
      .ok (c.putV v.vd.toNat c.sew c.vl (fun e =>
        if c.active v e ∧ d ≤ e then c.elem c.sew v.vs1.toNat (e - d) else c.elem c.sew v.vd.toNat e)) }

def vsldnOp : VOp :=
  { ill := anyFmt
    run := fun v c =>
      let d := c.offset v
      .ok (c.each v c.sew (fun e => if e + d < c.capacity then c.elem c.sew v.vs1.toNat (e + d) else 0)) }

def vpermOp : VOp :=
  { ill := anyFmt
    run := fun v c => .ok (c.each v c.sew (fun e =>
      let i := c.elem c.sew v.vs2.toNat e
      if i < c.capacity then c.elem c.sew v.vs1.toNat i else 0)) }

/-! ### Compress, expand and iota (R139) -/

/-- The active elements below VL, ascending. -/
def Ctx.actives (c : Ctx) (v : VArgs) : List Nat := (upTo c.vl).filter (c.active v)

/-- Number of active elements below `e`. -/
def Ctx.rank (c : Ctx) (v : VArgs) (e : Nat) : Nat := ((upTo e).filter (c.active v)).length

def vcompressOp : VOp :=
  { ill := anyFmt
    run := fun v c =>
      let l := c.actives v
      .ok (c.putV v.vd.toNat c.sew l.length (fun i => c.elem c.sew v.vs1.toNat (l.getD i 0))) }

def vexpandOp : VOp :=
  { ill := anyFmt, run := fun v c => .ok (c.each v c.sew (fun e => c.elem c.sew v.vs1.toNat (c.rank v e))) }

def viotaOp : VOp :=
  { ill := notInteger
    run := fun v c => .ok (c.each v c.sew (fun e =>
      ((upTo e).filter (fun f => c.active v f && c.mask v.vs1.toNat f)).length % 2 ^ c.sew)) }

/-! ### Reductions (R140, R141) -/

/-- Write element 0 alone, with tag SEW (R140). -/
def Ctx.putFirst (c : Ctx) (v : VArgs) (r : Nat) : Ctx := c.putV v.vd.toNat c.sew 1 (fun _ => r)

/-- The start value and the contributions of a reduction. -/
def Ctx.start0 (c : Ctx) (v : VArgs) : Nat := c.elem c.sew v.vs2.toNat 0
def Ctx.contributions (c : Ctx) (v : VArgs) : List Nat := (c.actives v).map (fun e => c.elem c.sew v.vs1.toNat e)

/-- An integer reduction by a step on two elements; `signed` of R140. -/
def redOp (f : Bool → Nat → Nat → Nat → Nat) : VOp :=
  { ill := notInteger
    run := fun v c => .ok (c.putFirst v ((c.contributions v).foldl (f (fmtSigned c.vt) c.sew) (c.start0 v))) }

def redMin (signed : Bool) (w a b : Nat) : Nat := if signed then vMin w a b 0 else vMinu w a b 0
def redMax (signed : Bool) (w a b : Nat) : Nat := if signed then vMax w a b 0 else vMaxu w a b 0

def vredsumOp : VOp := redOp (fun _ w a b => vAdd w a b 0)
def vredminOp : VOp := redOp redMin
def vredmaxOp : VOp := redOp redMax

/-- Fold with flags. -/
def foldF (f : Nat → Nat → Nat × BitVec 5) (p : Nat × BitVec 5) (l : List Nat) : Nat × BitVec 5 :=
  l.foldl (fun p x => let r := f p.1 x; (r.1, p.2 ||| r.2)) p

/-- The NV that a signalling NaN start value raises (R140). -/
def startFlag (f : FpFormat) (s : Nat) : BitVec 5 := flagIf (fpRead f s).isSnan flagNV

/-- A floating-point reduction, from the format, mode, start value and VL leaves of which some are absent. -/
def fredOp (f : FpFormat → Nat → Nat → List (Option Nat) → Nat × BitVec 5) : VOp :=
  { ill := notFloat
    run := fun v c =>
      if c.vl = 0 then .ok c
      else
        let g := formatOf c.vt
        let leaves := (upTo c.vl).map (fun e => if c.active v e then some (c.elem c.sew v.vs1.toNat e) else none)
        let r := f g (vtRm c.vt) (c.start0 v) leaves
        .ok ((c.putFirst v (fpPass g r.1)).flag (r.2 ||| startFlag g (c.start0 v))) }

def orderedSum (g : FpFormat) (rm s : Nat) (l : List (Option Nat)) : Nat × BitVec 5 :=
  foldF (fpAdd g rm) (s, 0) (l.filterMap id)

/-- One level of the tree: neighbours are added where both are present. -/
def treeLevel (g : FpFormat) (rm : Nat) : List (Option Nat) → List (Option Nat) × BitVec 5
  | [] => ([], 0)
  | [a] => ([a], 0)
  | a :: b :: l =>
    let r := treeLevel g rm l
    match a, b with
    | some x, some y => let z := fpAdd g rm x y; (some z.1 :: r.1, z.2 ||| r.2)
    | some x, none => (some x :: r.1, r.2)
    | none, y => (y :: r.1, r.2)

/-- The tree down to its root, in at most `n` levels. -/
def treeSum (g : FpFormat) (rm : Nat) : Nat → List (Option Nat) → Option Nat × BitVec 5
  | 0, l => (l.headD none, 0)
  | n + 1, l =>
    if l.length ≤ 1 then (l.headD none, 0)
    else
      let r := treeLevel g rm l
      let q := treeSum g rm n r.1
      (q.1, r.2 ||| q.2)

def treeReduce (g : FpFormat) (rm s : Nat) (l : List (Option Nat)) : Nat × BitVec 5 :=
  match treeSum g rm 13 l with
  | (none, f) => (s, f)
  | (some x, f) => let r := fpAdd g rm s x; (r.1, f ||| r.2)

def vfredoOp : VOp := fredOp orderedSum
def vfredtOp : VOp := fredOp treeReduce
def vfredminOp : VOp := fredOp (fun g _ s l => foldF (fpMinMax g false) (s, 0) (l.filterMap id))
def vfredmaxOp : VOp := fredOp (fun g _ s l => foldF (fpMinMax g true) (s, 0) (l.filterMap id))

end Sys2Proof.Machine
end

