-- ==== Sys2Proof/Machine/Packed.lean ====
section
/-!
DEFINITION. Sys2Proof/Machine/Packed.lean: field layouts and the packed instructions of MTX (R167 to R177 of
spec/09_multiplier_cells.md).
-/
namespace Sys2Proof.Machine

/-! ### Field layouts (Table 9.3) -/

def flP (f : Word) : Nat := field f 0 7
def flNA (f : Word) : Nat := field f 7 5
def flNB (f : Word) : Nat := field f 12 5
def flWA (f : Word) : Nat := field f 17 6
def flWB (f : Word) : Nat := field f 23 6
def flSA (f : Word) : Bool := bitAt f.toNat 29
def flSB (f : Word) : Bool := bitAt f.toNat 30
def flOS (f : Word) : Bool := bitAt f.toNat 31
def flGuard (f : Word) : Nat := field f 32 2
def flXF (f : Word) : Nat := field f 34 6
def flXN (f : Word) : Nat := field f 40 6
def flXW (f : Word) : Nat := field f 46 3
def flXMode (f : Word) : Nat := field f 49 2
def flXWin (f : Word) : Nat := field f 51 7

/-- Window width W and output width XWb (R167). -/
def flW (f : Word) : Nat := if flXWin f = 0 then flP f else flXWin f
def flXWb (f : Word) : Nat := sewBits (flXW f)

/-- The checks of R171 on a non-zero value. -/
def layoutOk (f : Word) : Bool :=
  field f 58 6 == 0 && flP f != 0 && flNA f != 0 && flNB f != 0 && flWA f != 0 && flWB f != 0 && flXN f != 0
    && flWA f ≤ flP f && flWB f ≤ flP f
    && flNA f * flP f ≤ 128 && flNB f * flP f ≤ 128 && (flNA f + flNB f - 1) * flP f ≤ 256
    && !((flSA f || flSB f) && !flOS f)
    && flGuard f != 3 && flXMode f != 3 && flXW f ≤ 5
    && (flXWin f == 0 || (flP f ≤ flXWin f && flXWin f ≤ 64))
    && flW f ≤ flXWb f
    && flXF f + flXN f ≤ flNA f + flNB f - 1
    && (flXMode f != 2 || flXN f == 1)

/-- The bound of R172 and R176 on largest magnitudes. -/
def boundHolds (f : Word) (ma mb : Nat) : Bool :=
  min (flNA f) (flNB f) * ma * mb < 2 ^ (if flOS f then flP f - 1 else flP f)

/-- Largest magnitude of a field (R172). -/
def maxField (w : Nat) (s : Bool) : Nat := if s then 2 ^ (w - 1) else 2 ^ w - 1

/-- The guard bound that FLSET proves under STATIC (R172). -/
def staticOk (f : Word) : Bool :=
  flGuard f != 0 || boundHolds f (maxField (flWA f) (flSA f)) (maxField (flWB f) (flSB f))

/-- F register number `n`. -/
def Hart.fr (h : Hart) (n : Nat) : Word := h.f.getD n 0

/-- FLSET (R171, R172). -/
def flsetOp : VOp :=
  { ill := anyFmt
    run := fun v c =>
      let x := c.rx v.xs
      if x ≠ 0 ∧ ¬ layoutOk x then c.refuse .ill c.wordAddress
      else if x ≠ 0 ∧ ¬ staticOk x then c.refuse .guard 0
      else .ok (c.effect (fun s => s.mapH (fun h => { h with f := h.f.set v.fPK x }))) }

/-- FLGET (R173): at every VL. -/
def flgetOp : VOp := { ill := anyFmt, run := fun v c => .ok (c.putX v.xs (c.s.h.fr v.fPK)) }

/-! ### Words and fields (R174, R175) -/

/-- The number that the low `n` bits of an integer spell, read as signed if `s`. -/
def readSigned (s : Bool) (n : Nat) (i : Int) : Int := if s then toSigned n (ofInt n i) else (ofInt n i : Int)

/-- Word `j` of a register at width 64 (R175): elements at or beyond VL read as zero. -/
def Ctx.word128 (c : Ctx) (n j : Nat) : Nat :=
  let e := fun i => if i < c.vl then c.elem 64 n i else 0
  e (2 * j + 1) * 2 ^ 64 + e (2 * j)

/-- Fields read by sequential correction (R175), from field `k` on, `n` of them: window width, pitch. -/
def extractFrom (os : Bool) (w p xf : Nat) : Nat → Nat → Int → List Int
  | 0, _, _ => []
  | n + 1, k, i =>
    let f := readSigned os p i
    let rest := extractFrom os w p xf n (k + 1) ((i - f) / 2 ^ p)
    if xf ≤ k then readSigned os w i :: rest else rest

/-- extract(P) of R175. -/
def extractFields (f : Word) (i : Int) : List Int := extractFrom (flOS f) (flW f) (flP f) (flXF f) (flXF f + flXN f) 0 i

/-- The `n` fields of a word at pitch p, by the correction rule (R176). -/
def fieldsOf (p n : Nat) (s : Bool) (i : Int) : List Int := extractFrom s p p 0 n 0 i

/-- Largest magnitude of a list. -/
def maxMagnitude (l : List Int) : Nat := l.foldl (fun m i => max m i.natAbs) 0

/-- bound_holds(a, b) of R176. -/
def wordsHold (f : Word) (a b : Int) : Bool :=
  boundHolds f (maxMagnitude (fieldsOf (flP f) (flNA f) (flSA f) a)) (maxMagnitude (fieldsOf (flP f) (flNB f) (flSB f) b))

/-- Number of outputs of `nw` words (R176). -/
def outputCount (f : Word) (nw : Nat) : Nat :=
  if nw = 0 then 0
  else if flXMode f = 0 then nw * flXN f
  else if flXMode f = 1 then (nw - 1) * flNA f + flXN f
  else nw

/-- Output `o` from the fields of each word (R176). -/
def outputAt (f : Word) (outs : List (List Int)) (o : Nat) : Int :=
  if flXMode f = 0 then (outs.getD (o / flXN f) []).getD (o % flXN f) 0
  else if flXMode f = 1 then
    ((upTo outs.length).map (fun j =>
      if j * flNA f ≤ o ∧ o < j * flNA f + flXN f then (outs.getD j []).getD (o - j * flNA f) 0 else 0)).sum
  else (outs.getD o []).getD 0 0

/-- Place outputs in vd, added to the old elements if `acc` (R176). -/
def Ctx.place (c : Ctx) (v : VArgs) (f : Word) (acc : Bool) (nw : Nat) (outs : List (List Int)) : Ctx :=
  let w := flXWb f
  c.putV v.vd.toNat w (outputCount f nw) (fun o =>
    let r := outputAt f outs o
    ofInt w (if acc then (c.elem w v.vd.toNat o : Int) + r else r))

/-! ### The instructions -/

/-- Steps 1 and 2 of R170: nothing at VL = 0. -/
def packedIll (vtOk : BitVec 11 → Bool) (v : VArgs) (s : State) : Bool :=
  s.h.vln != 0 && (!vtOk s.h.vt || s.h.fr v.fPK == 0)

/-- VT of Table 9.4 for the products. -/
def productVt (vt : BitVec 11) : Bool := vtSew vt == 64 && (vtFmt vt == 0 || vtFmt vt == 1)

/-- VT of Table 9.4 for VPACK. -/
def packVt (vt : BitVec 11) : Bool := vtSew vt ≤ 32 && (vtFmt vt == 0 || vtFmt vt == 1 || vtFmt vt == 4)

/-- An element's value as VPACK reads it (R174). -/
def Ctx.packValue (c : Ctx) (n e : Nat) : Int :=
  if e < c.vl then (if fmtSigned c.vt then toSigned c.sew (c.elem c.sew n e) else (c.elem c.sew n e : Int)) else 0

/-- Is a value inside the range of a field (R174)? -/
def inField (w : Nat) (s : Bool) (x : Int) : Bool :=
  if s then -(2 ^ (w - 1) : Int) ≤ x && x < (2 ^ (w - 1) : Int) else 0 ≤ x && x < (2 ^ w : Int)

/-- VPACK (R174). -/
def vpackOp : VOp :=
  { ill := packedIll packVt, named := true
    run := fun v c =>
      if c.vl = 0 then .ok c
      else
        let f := c.s.h.fr v.fPK
        let opb := bitAt v.modPK 1
        let rev := bitAt v.modPK 0
        let n := if opb then flNB f else flNA f
        let wf := if opb then flWB f else flWA f
        let sg := if opb then flSB f else flSA f
        let nw := ceilDiv c.vl n
        if 64 < nw then c.refuseAt .shape 0 (64 * n)
        else match (upTo (nw * n)).find? (fun e => flGuard f != 2 && !inField wf sg (c.packValue v.vs1.toNat e)) with
          | some e => c.refuseAt .guard 0 e
          | none => .ok (c.putV v.vd.toNat 128 nw (fun j =>
              ofInt 128 (((upTo n).map (fun i =>
                c.packValue v.vs1.toNat (j * n + i) * (2 ^ ((if rev then n - 1 - i else i) * flP f) : Int))).sum))) }

/-- The products of VPCONV and VPCONVA (R176). -/
def convOp (acc : Bool) : VOp :=
  { ill := packedIll productVt, named := true
    run := fun v c =>
      if c.vl = 0 then .ok c
      else
        let f := c.s.h.fr v.fPK
        let nw := ceilDiv c.vl 2
        let a := fun j => readSigned (flSA f) 128 (c.word128 v.vs1.toNat j)
        let b := fun j => readSigned (flSB f) 128 (c.word128 v.vs2.toNat (if bitAt v.modPK 0 then 0 else j))
        if 8192 < outputCount f nw * flXWb f then c.refuseAt .shape 0 (firstOver (flXWb f))
        else match (upTo nw).find? (fun j => flGuard f == 1 && !wordsHold f (a j) (b j)) with
          | some j => c.refuseAt .guard 0 (2 * j)
          | none => .ok (c.place v f acc nw ((upTo nw).map (fun j => extractFields f (a j * b j)))) }

def vpconvOp : VOp := convOp false
def vpconvaOp : VOp := convOp true

/-- VFEXT (R177). -/
def vfextOp : VOp :=
  { ill := packedIll productVt, named := true
    run := fun v c =>
      if c.vl = 0 then .ok c
      else
        let f := c.s.h.fr v.fPK
        let nw := ceilDiv c.vl 2
        if 8192 < outputCount f nw * flXWb f then c.refuseAt .shape 0 (firstOver (flXWb f))
        else .ok (c.place v f false nw ((upTo nw).map (fun j =>
          extractFields f (readSigned (flOS f) 128 (c.word128 v.vs1.toNat j))))) }

end Sys2Proof.Machine
end

