-- ==== Sys2Proof/Machine/Mtx.lean ====
section
/-!
DEFINITION. Sys2Proof/Machine/Mtx.lean: panes, the matrix instructions, captured updates and their application (R183 to
R204 of spec/11_accumulator_panes.md).
-/
namespace Sys2Proof.Machine

/-- Element width of a pane type (R183); 0 for NONE. -/
def PaneType.width : PaneType → Nat
  | .none => 0
  | .fp64 => 64
  | .int64 => 64
  | .fp32 => 32
  | .int32 => 32

/-- Pane numbers of a range. -/
def paneRange (v : VArgs) : List Nat := (upTo (v.rows + 1)).map (fun i => v.pane + i)

/-- Does the hart in hand own pane `n`? -/
def State.owns (s : State) (n : Nat) : Bool := (s.core.pane n).owner == some s.h.id

/-- Change pane `n` of the core in hand. -/
def State.onPane (s : State) (n : Nat) (f : Pane → Pane) : State :=
  s.mapCore (fun k => { k with panes := modAt f n k.panes })

/-- A set of rows as bits. -/
def rowBits (lo n : Nat) : BitVec 16 := BitVec.ofNat 16 ((2 ^ n - 1) * 2 ^ lo)

/-! ### Capture (R196, R197) -/

/-- Capture an update: its entry joins the hart's queue and its rows' chaining bits are set. -/
def State.capture (s : State) (u : Update) : State :=
  (s.mapH (fun h => { h with mq := h.mq ++ [u] })).onPane u.pane (fun p => { p with chain := p.chain ||| u.rows })

/-- PERM unless the hart owns pane `v.pane` (R186 step 2), then SHAPE unless its type is one of `ok` (step 3). -/
def Ctx.withPane (c : Ctx) (v : VArgs) (ok : PaneType → Bool) (k : Pane → Slot) : Slot :=
  let p := c.s.core.pane v.pane
  if !c.s.owns v.pane then c.refuse .perm (BitVec.ofNat 64 v.pane)
  else if !ok p.ty then c.refuse .shape (BitVec.ofNat 64 v.pane)
  else k p

/-- Register bits below the tag. -/
def VReg.shown (r : VReg) : BitVec 8192 := r.bits &&& BitVec.ofNat 8192 (2 ^ r.tag - 1)

/-- VT that MMA accepts (Table 11.5). -/
def mmaVt (vt : BitVec 11) : Bool :=
  let w := vtSew vt
  match vtFmt vt with
  | 0 => w ≤ 8
  | 1 => w ≤ 8
  | 2 => 16 ≤ w
  | 3 => w == 16
  | 4 => vtBlkCode vt == 1 && (w == 4 || w == 8 || w == 16)
  | _ => false

/-- Pane types that MMA accepts under a VT (Table 11.5). -/
def mmaPane (vt : BitVec 11) (ty : PaneType) : Bool :=
  if vtFmt vt = 0 ∨ vtFmt vt = 1 then ty == .int32 || ty == .int64
  else if vtFmt vt = 2 ∧ vtSew vt = 64 then ty == .fp64
  else ty == .fp32

/-- Bytes of the operand buffer that a matrix instruction reserves (R196), in the state at its place. -/
def operandBytes (i : Instr) (s : State) : Nat :=
  let vl := s.h.vln
  if vl = 0 then 0
  else match i with
    | .mma v => (v.rows + 1) * s.h.sew + vl * s.h.sew + (if vtFmt s.h.vt = 4 then v.rows + 1 + vl else 0)
    | .mconv v => 16 * (v.fwd + 1) + 8 * (v.rows + 1) * vl
    | .mwrrow _ => vl * s.h.sew / 8
    | _ => 0

/-- Entries of the matrix operand queue that an instruction takes (R204). -/
def operandEntries (i : Instr) (s : State) : Nat :=
  match i with
  | .mma _ => if s.h.vln = 0 then 0 else 1
  | .mconv _ => if s.h.vln = 0 then 0 else 1
  | .mwrrow _ => if s.h.vln = 0 then 0 else 1
  | .mzero _ => 1
  | _ => 0

/-- MMA (R190, R191, R196); vs2 is unused, and so required to be 0, unless FMT is BSI (R21, Table 11.4): it is refused at step 11 of R333, since it
depends on VT (DESIGN CHOICE, log 29: step 7 could be meant). -/
def mmaOp : VOp :=
  { ill := fun v s => !mmaVt s.h.vt || (vtFmt s.h.vt != 4 && v.vs2 != 0)
    run := fun v c =>
      if c.vl = 0 then .ok c
      else c.withPane v (mmaPane c.vt) (fun p =>
        let cols := 8192 / p.ty.width
        if cols < c.vl then c.refuseAt .shape 0 cols
        else
          let kind := .mma c.vt p.ty c.vl (v.rows + 1) (buildMask c.vl (c.active v)) (c.reg v.vs1.toNat).shown
            ((upTo 8).map (fun k => (c.reg (v.vd.toNat + k)).shown)) (c.reg v.vs2.toNat).shown
          let u : Update := { pane := v.pane, rows := rowBits 0 (v.rows + 1), bytes := operandBytes (.mma v) c.s, kind := kind }
          .ok (c.effect (·.capture u))) }

/-- F register of an MX form. -/
def Ctx.layout (c : Ctx) (v : VArgs) : Word := c.s.h.fr v.fMX

/-- Signal word `j` of row `s` (R194): samples at or beyond VL read as zero. -/
def Ctx.signal (c : Ctx) (v : VArgs) (s j : Nat) : Int :=
  readSigned (flSA (c.layout v)) 128 (c.word128 (v.vd.toNat + s) j)

/-- Filter word `g` (R194): whole, whatever VL is, so that a filter may be longer than the signal (R195; log 31). -/
def Ctx.filterWord (c : Ctx) (v : VArgs) (g : Nat) : Int :=
  readSigned (flSB (c.layout v)) 128 (c.elem 64 v.vs1.toNat (2 * g + 1) * 2 ^ 64 + c.elem 64 v.vs1.toNat (2 * g))

/-- The sums of row `s` (R194, R195). -/
def Ctx.convRow (c : Ctx) (v : VArgs) (s : Nat) : List Int :=
  let f := c.layout v
  let parts := (upTo (ceilDiv c.vl 2)).flatMap (fun j => (upTo (v.fwd + 1)).map (fun g =>
    (j * flNA f + g * flNB f, extractFields f (c.signal v s j * c.filterWord v g))))
  (upTo 128).map (fun o => (parts.map (fun q => if q.1 ≤ o then q.2.getD (o - q.1) 0 else 0)).sum)

/-- MCONV (R194). An XMODE other than OVERLAP is refused at every VL (DESIGN CHOICE, log 29: R186 and R63 differ on it at VL = 0). -/
def mconvOp : VOp :=
  { ill := fun v s => !productVt s.h.vt || s.h.fr v.fMX == 0 || flXMode (s.h.fr v.fMX) != 1
    run := fun v c =>
      if c.vl = 0 then .ok c
      else c.withPane v (· == .int64) (fun _ =>
        let f := c.layout v
        let triples := (upTo (v.rows + 1)).flatMap (fun s => (upTo (ceilDiv c.vl 2)).flatMap (fun j =>
          (upTo (v.fwd + 1)).map (fun g => (s, j, g))))
        match triples.find? (fun t => flGuard f == 1 && !wordsHold f (c.signal v t.1 t.2.1) (c.filterWord v t.2.2)) with
        | some t => c.refuseAt .guard (BitVec.ofNat 64 t.1) (2 * t.2.1)
        | none =>
          let b := if bitAt v.modMX 0 then 8 else 0
          let kind := .mconv b ((upTo (v.rows + 1)).map (c.convRow v))
          let u : Update := { pane := v.pane, rows := rowBits b (v.rows + 1), bytes := operandBytes (.mconv v) c.s, kind := kind }
          .ok (c.effect (·.capture u))) }

/-- Type that MZERO's modifier names. -/
def mzeroType (n : Nat) : PaneType := match n with | 0 => .fp64 | 1 => .fp32 | 2 => .int32 | _ => .int64

/-- MZERO (R189): at every VL; the type is set at the capture. -/
def mzeroOp : VOp :=
  { ill := anyFmt
    run := fun v c => c.withPane v (fun _ => true) (fun _ =>
      let u : Update := { pane := v.pane, rows := BitVec.allOnes 16, bytes := 0, kind := .mzero }
      .ok (c.effect (fun s => (s.onPane v.pane (fun p => { p with ty := mzeroType (v.modMX % 4) })).capture u))) }

/-- MRDROW (R198). -/
def mrdrowOp : VOp :=
  { ill := anyFmt
    run := fun v c =>
      if c.vl = 0 then .ok c
      else c.withPane v (fun ty => ty.width == c.sew) (fun p =>
        if p.failed then c.refuse .data (BitVec.ofNat 64 v.pane)
        else .ok (c.putV v.vd.toNat c.sew c.vl (fun e => elemOf c.sew (p.rows.getD v.rows 0) e))) }

/-- MWRROW (R199). -/
def mwrrowOp : VOp :=
  { ill := anyFmt
    run := fun v c =>
      if c.vl = 0 then .ok c
      else c.withPane v (fun ty => ty.width == c.sew) (fun _ =>
        let kind := .mwrrow v.rows c.sew c.vl (c.reg v.vd.toNat).shown
        let u : Update := { pane := v.pane, rows := rowBits v.rows 1, bytes := operandBytes (.mwrrow v) c.s, kind := kind }
        .ok (c.effect (·.capture u))) }

/-- A pane range that passes P47 (R186 step 1). -/
def badRange (v : VArgs) (_ : State) : Bool := 48 < v.pane + (v.rows + 1)

/-- PCLAIM (R187): the answer was decided at issue. -/
def pclaimOp : VOp := { ill := badRange, run := fun v c => .ok (c.putX v.xs c.cv.answer) }

/-- PFREE (R188). -/
def pfreeOp : VOp :=
  { ill := badRange
    run := fun v c => match (paneRange v).find? (fun n => !c.s.owns n) with
      | some n => c.refuse .perm (BitVec.ofNat 64 n)
      | none => .ok (c.effect (fun s => (paneRange v).foldl (fun s n => s.onPane n (fun _ => freePane)) s)) }

/-- What PCLAIM's convoy takes when it issues (R187): the panes it makes its own, and its answer. -/
def State.claim (s : State) (v : VArgs) : List Nat × Word :=
  let r := paneRange v
  if r.all (fun n => (s.core.pane n).owner == none || s.owns n) then (r.filter (fun n => !s.owns n), 1) else ([], 0)

/-- Make the hart the owner of panes. -/
def State.takePanes (s : State) (ps : List Nat) : State :=
  ps.foldl (fun s n => s.onPane n (fun p => { p with owner := some s.h.id })) s

/-! ### Application of an update (R191 to R195, R197, R199, R200) -/

/-- A row of elements of width `w`. -/
def rowWith (w : Nat) (f : Nat → Nat) : BitVec 8192 := BitVec.ofNat 8192 (packFrom w f 0 (8192 / w))

/-- Format of a floating-point pane. -/
def paneFormat (w : Nat) : FpFormat := if w = 64 then binary64 else binary32

/-- One element of a floating-point MMA (R191, R192): the exact sum of the old element and the products, rounded once. A signalling NaN that stands
in the old element raises NV too (DESIGN CHOICE, log 30: R192 names an input apart from C[i][c]). -/
def fpDot (src dst : FpFormat) (rm old : Nat) (ps : List (Nat × Nat)) : Nat × BitVec 5 :=
  let c := fpRead dst old
  let vs := ps.map (fun p => (fpRead src p.1, fpRead src p.2))
  let prods := vs.map (fun p => if p.1.isNan || p.2.isNan then none else fpProduct p.1 p.2)
  let snan := c.isSnan || vs.any (fun p => p.1.isSnan || p.2.isSnan)
  let zeroInf := vs.any (fun p => !p.1.isNan && !p.2.isNan && (fpProduct p.1 p.2).isNone)
  let infs := (c :: prods.filterMap id).filter (·.isInf)
  let mixed := infs.any (·.neg) && infs.any (fun x => !x.neg)
  let nan := c.isNan || prods.any (·.isNone)
  if nan || mixed then nanResult dst (snan || zeroInf || mixed)
  else match infs with
    | x :: _ => (fpSigned dst x.neg (fpInfBits dst), 0)
    | [] => roundSum dst rm ((c :: prods.filterMap id).filterMap (fun x => match x with
        | .fin s m e => some (s, m, e)
        | _ => none))

/-- One element of a block-scaled MMA (R193). A signalling NaN that stands in the old element raises NV (DESIGN CHOICE, log 30: R193 says nothing of
a NaN there). -/
def bsiDot (rm w old sa sb : Nat) (ps : List (Nat × Nat)) : Nat × BitVec 5 :=
  if sa = 255 ∨ sb = 255 then (fpNaN binary32, 0)
  else match fpRead binary32 old with
    | .nan s => nanResult binary32 s
    | .inf s => (fpSigned binary32 s (fpInfBits binary32), 0)
    | .fin s m e =>
      let d := (ps.map (fun p => toSigned w p.1 * toSigned w p.2)).sum
      let x : Bool × Nat × Int := if sa = 0 ∨ sb = 0 then (false, 0, 0)
        else (decide (d < 0), d.natAbs, (sa : Int) + sb - 254 - 2 * ((w : Int) - 2))
      roundSum binary32 rm [(s, m, e), x]

/-- One element of an integer MMA. -/
def intDot (signed : Bool) (w pw old : Nat) (ps : List (Nat × Nat)) : Nat :=
  let val := fun a => if signed then toSigned w a else (a : Int)
  ofInt pw ((old : Int) + (ps.map (fun p => val p.1 * val p.2)).sum)

/-- One element of an MMA, row `i`, column `c`. -/
def mmaElem (vt : BitVec 11) (ty : PaneType) (m : Nat) (a : BitVec 8192) (b : List (BitVec 8192)) (sc : BitVec 8192)
    (i c old : Nat) : Nat × BitVec 5 :=
  let w := vtSew vt
  let ps := (upTo 8).map (fun k => (elemOf w a (8 * i + k), elemOf w (b.getD k 0) c))
  match vtFmt vt with
  | 0 => (intDot true w ty.width old ps, 0)
  | 1 => (intDot false w ty.width old ps, 0)
  | 4 => bsiDot (vtRm vt) w old (elemOf 8 sc i) (elemOf 8 sc (m + c)) ps
  | _ => fpDot (formatOf vt) (paneFormat ty.width) (vtRm vt) old ps

/-- The rows after an update, and its flags. -/
def UpdateKind.apply (u : UpdateKind) (rows : List (BitVec 8192)) : List (BitVec 8192) × BitVec 5 :=
  match u with
  | .mma vt ty vl m act a b sc =>
    let w := ty.width
    let res := fun i => (upTo vl).map (fun c =>
      let old := elemOf w (rows.getD i 0) c
      if act.getLsbD c then mmaElem vt ty m a b sc i c old else (old, 0))
    let all := (upTo m).map res
    ((upTo 16).map (fun i =>
      let old := rows.getD i 0
      if i < m then rowWith w (fun c => if c < vl then ((all.getD i []).getD c (0, 0)).1 else elemOf w old c) else old),
     (all.flatMap (·.map (·.2))).foldl (· ||| ·) 0)
  | .mconv base acc =>
    ((upTo 16).map (fun i =>
      let old := rows.getD i 0
      if base ≤ i ∧ i < base + acc.length then
        rowWith 64 (fun c => ofInt 64 ((elemOf 64 old c : Int) + (acc.getD (i - base) []).getD c 0))
      else old), 0)
  | .mzero => (List.replicate 16 0, 0)
  | .mwrrow row w vl data =>
    (modAt (fun old => rowWith w (fun c => if c < vl then elemOf w data c else elemOf w old c)) row rows, 0)

/-- Rows of a pane that captured updates still touch. -/
def pendingRows (mq : List Update) (pane : Nat) : BitVec 16 :=
  (mq.filter (·.pane == pane)).foldl (fun b u => b ||| u.rows) 0

/-- MATRIX_UPDATE_APPLY (R197, R200, R201) on the hart in hand: entry `index` completes, unless an earlier entry touches one of
its rows; `dataError` marks the pane failed. The flags of an MMA are ORed into FFLAGS then, too (DESIGN CHOICE, log 72: R200 speaks of an update
that completes, and R201 says nothing of the flags of one that fails). -/
def State.applyUpdate (s : State) (index : Nat) (dataError : Bool) : State :=
  match s.h.mq[index]? with
  | none => s
  | some u =>
    if (s.h.mq.take index).any (fun e => e.pane == u.pane && e.rows &&& u.rows != 0) then s
    else
      let mq := dropAt index s.h.mq
      let r := u.kind.apply (s.core.pane u.pane).rows
      let cleared := match u.kind with | .mzero => false | _ => (s.core.pane u.pane).failed
      (s.mapH (fun h => { h with mq := mq, fflags := h.fflags ||| r.2 })).onPane u.pane (fun p =>
        { p with rows := r.1, failed := cleared || dataError, chain := p.chain &&& pendingRows mq u.pane })

def execMatrixUpdateApply (hart index : Nat) (dataError : Bool) (s : State) : Out :=
  .next (s.withHart hart (·.applyUpdate index dataError))

end Sys2Proof.Machine
end

