-- ==== Sys2Proof/Machine/Vlsu.lean ====
section
/-!
DEFINITION. Sys2Proof/Machine/Vlsu.lean: vector loads, stores, scatter-adds and atomics in the four spaces, local and remote
(R205, R206, R211 to R219 of spec/12_local_memories.md, R222 of spec/13_streams.md, R248, R249 of spec/14_device_memory.md).
-/
namespace Sys2Proof.Machine

/-! ### Spaces and targets (R57, R206, R211) -/

/-- VMT fields (Table 4.4). -/
def Hart.space (h : Hart) : Nat := h.vmt.toNat % 4
def Hart.remote (h : Hart) : Bool := h.vmt.getLsbD 2
def Hart.vmtTarget (h : Hart) : Nat := h.vmt.toNat / 8

/-- Number of logical cores of a die (R3, R312). -/
def State.coreCount (s : State) (die : Nat) : Nat := popcount 36 (s.dev.harvest.getD die 0).toNat

/-- Is a logical core of a die enabled? -/
def State.coreEnabled (s : State) (die core : Nat) : Bool := die < 6 && core < s.coreCount die

/-- Does core `c` run a group of task `t` (R206)? A group runs until it retires (R321). -/
def State.runsTask (s : State) (c t : Nat) : Bool := (s.hartsOfCore c).any (·.ofTask t)

/-- The core that the hart's vector accesses reach, or how a remote target is denied (R206, R211). -/
def State.vectorCore (s : State) : Except Denial Nat :=
  let die := dieOfHart s.h.id
  if s.h.space = 0 ∨ !s.h.remote then .ok (s.h.id / 4)
  else if !s.coreEnabled die s.h.vmtTarget then .error .page
  else
    let c := die * 512 + s.h.vmtTarget
    if c = s.h.id / 4 ∨ s.runsTask c s.h.task then .ok c else .error .perm

/-! ### Streams as the interlocks see them (R219, R222) -/

/-- Width in bytes of one element at the tile side (Table 13.4). -/
def Stream.width (q : Stream) : Nat :=
  if q.kind = 4 then 4096
  else if q.kind ≤ 1 ∧ q.mode.toNat % 4 ≠ 0 then 4
  else vtSew q.vt / 8

/-- Destination core and tile of a QRED (R229). -/
def Stream.destCore (q : Stream) : Nat := field q.xa 17 3 * 512 + field q.xa 8 9
def Stream.destTile (q : Stream) : Nat := field q.xa 0 6

/-- Bytes of its tile that a stream reads or writes, and whether it has yet to (R227, R229, R230, R231). -/
def Stream.tileBytes (q : Stream) : Nat := if q.kind = 3 then q.width else q.total * q.width
def Stream.tileLeft (q : Stream) : Bool :=
  match q.kind.toNat with
  | 2 => !q.sent
  | 4 => bitAt q.mode.toNat 0
  | _ => true

/-- Does a stream still hold its ranges (R222)? -/
def Stream.running (q : Stream) : Bool := !q.complete && q.status == 0

/-- Does a byte lie in one of the ranges? -/
def inRanges (rs : List (Nat × Nat)) (a n : Nat) : Bool := rs.any (fun r => r.1 < a + n && a < r.2)

/-- Must an access of `n` bytes at `a` wait for a stream of the hart (R222)? -/
def Hart.interlocked (h : Hart) (write : Bool) (a n : Nat) : Bool :=
  h.streams.any (fun o => match o with
    | none => false
    | some q => q.running && (inRanges q.writes a n || (write && inRanges q.reads a n)))

/-- Has a QFOLD of the hart still to be applied to tile `n` of its core (R230)? A later access of the hart there comes after it (R269). -/
def Hart.foldPending (h : Hart) (n : BitVec 6) : Bool :=
  h.streams.any (fun o => match o with | none => false | some q => q.kind == 3 && q.running && q.tn == n)

/-- A tile of a core. -/
def State.tileOf (s : State) (core n : Nat) : Tile := (s.coreOf core).tiles.getD n freeTile

/-- Do `n` bytes from offset `a` of a core's local map meet the first `bytes` bytes of a tile of the core? -/
def State.meetsTile (s : State) (core tile bytes a n : Nat) : Bool :=
  let base := 0x200000 + 1024 * (s.tileOf core tile).base
  decide (base < a + n) && decide (a < base + bytes)

/-- Does a stream write its tile (R227, R230, R231)? -/
def Stream.writesTile (q : Stream) : Bool := q.kind == 0 || q.kind == 3 || q.kind == 4

/-- Must an access of the hart's vector agent to `n` bytes from offset `a` of the local map of core `core` wait for a running stream of the
hart: for one that has yet to write them, in its tile or as a QRED's contribution, and, where the access writes, for one that has yet
to read them (R269; log 57)? -/
def State.streamHolds (s : State) (write : Bool) (core a n : Nat) : Bool :=
  s.h.streams.any (fun o => match o with
    | none => false
    | some q => q.running
      && ((q.tileLeft && (write || q.writesTile) && core == s.h.id / 4 && s.meetsTile core q.tn.toNat q.tileBytes a n)
        || (q.kind == 2 && core == q.destCore && s.meetsTile core q.destTile q.tileBytes a n)))

/-! ### Element addresses (R213, R218) -/

/-- How an instruction forms its addresses. -/
inductive VAddr where
  | unit | strided | indexed | bytes
  deriving DecidableEq, Repr

/-- Element width and bytes of the accesses. -/
def Ctx.itemWidth (c : Ctx) (m : VAddr) : Nat := if m = .bytes then 8 else c.sew
def Ctx.itemBytes (c : Ctx) (m : VAddr) : Nat := max 1 (c.itemWidth m / 8)

/-- A(e) (R213). -/
def Ctx.address (c : Ctx) (m : VAddr) (v : VArgs) (e : Nat) : Word :=
  let b := c.rx v.xs
  match m with
  | .unit => b + BitVec.ofNat 64 (e * c.sew / 8)
  | .strided => b + BitVec.ofNat 64 e * c.rx v.xb
  | .indexed => b + BitVec.ofNat 64 (c.elem (v.indexWidth c.sew) v.vs2.toNat e)
  | .bytes => b + BitVec.ofNat 64 e

/-- The active elements, ascending, as far as they are performed (R296): all bytes of a mask transfer (R218). -/
def Ctx.items (c : Ctx) (m : VAddr) (v : VArgs) : List Nat :=
  (if m = .bytes then upTo (ceilDiv c.vl 8) else c.actives v).filter c.reaches

/-- EELEM and ELANE of an element (R65, R218). For byte k of a mask transfer EELEM is 8k, and ELANE is the lane of byte k at SEW 8, at which
the transfer moves it (DEDUCED, log 36). -/
def Ctx.itemInfo (c : Ctx) (m : VAddr) (cause : Cause) (a : Word) (e : Nat) : TrapInfo :=
  c.trapInfo cause a (if m = .bytes then 8 * e else e) (laneOf c.cv.grant (c.itemWidth m) e)

/-! ### Where an element leads (R211, R212, R214) -/

/-- A tile as TILE space finds it, unless it is free or EMPTY (R212). -/
def State.tileUse (s : State) (core n : Nat) : Option TileUse :=
  let e := s.tileOf core n
  if e.alloc && e.state != .empty then some { core := core, tile := n, base := e.base, len := e.len } else none

/-- The tile that an access names: as it stands until the convoy issues, as the issue found it afterwards (R209, R219). -/
def Ctx.tileAt (c : Ctx) (core n : Nat) : Option TileUse :=
  if c.cv.issued then c.cv.tiles.find? (fun u => u.core == core && u.tile == n) else c.s.tileUse core n

/-- Where an address leads in its space (R211, R212). -/
def Ctx.placeIn (c : Ctx) (a : Access) (va : Word) (n : Nat) : Except Denial Place :=
  let A := va.toNat
  let s := c.s
  if s.h.space = 0 then s.translate a va
  else if s.h.space = 1 ∧ ¬ (0x200000 ≤ A ∧ A + n ≤ 0x400000) then .error .page
  else if s.h.space = 3 ∧ ¬ (A + n ≤ 0x10000) then .error .page
  else if s.h.space = 2 ∧ 2 ^ 38 ≤ A then .error .page
  else match s.vectorCore with
    | .error d => .error d
    | .ok core =>
      if s.h.space ≠ 2 then .ok { key := localKey core A, repl := false, atom := true }
      else match c.tileAt core (A / 2 ^ 32) with
        | none => .error .perm
        | some u =>
          if 1024 * u.len < A % 2 ^ 32 + n then .error .page
          else .ok { key := localKey core (0x200000 + 1024 * u.base + A % 2 ^ 32), repl := false, atom := true }

/-- The checks of one element before its access (R214): ALIGN, then PAGE and PERM or R212, then breakpoints (R301). -/
def Ctx.checkAccess (c : Ctx) (m : VAddr) (a : Access) (v : VArgs) (e : Nat) : Except Stop Place :=
  let va := c.address m v e
  let n := c.itemBytes m
  let kinds := match a with | .load => bpRead | .store => bpWrite | _ => bpBoth
  if va.toNat % n ≠ 0 then .error (.trap (c.itemInfo m .align va e))
  else match c.placeIn a va n with
    | .error d => .error (d.stop (c.itemInfo m .page va e))
    | .ok p => match c.s.h.bpStop kinds va n (c.itemInfo m .dbg va e) with
      | some x => .error x
      | none => .ok p

/-- Does a load that a FILLING tile trims load element `e` (R219)? -/
def Ctx.covers (c : Ctx) (e : Nat) : Bool := match c.cv.trim with | none => true | some n => e < n

/-- Does the read of an element at its place end in an abort completion, of a byte that no store of the hart's own gives (R158, R296)? -/
def Ctx.itemAborts (c : Ctx) (m : VAddr) (a : Access) (x : Nat × Place) : Bool :=
  a != .store && c.covers x.1 && c.s.readAborts true x.2.key (c.itemBytes m)

/-- The checks of one element, then for one that is read an abort completion. -/
def Ctx.checkItem (c : Ctx) (m : VAddr) (a : Access) (v : VArgs) (e : Nat) : Except Stop Place :=
  match c.checkAccess m a v e with
  | .error x => .error x
  | .ok p => if c.itemAborts m a (e, p) then .error (.abort (c.itemInfo m .data (c.address m v e) e)) else .ok p

/-- Check elements in ascending order. -/
def checkEach (check : Nat → Except Stop Place) : List Nat → Except Stop (List (Nat × Place))
  | [] => .ok []
  | e :: l => match check e with
    | .error x => .error x
    | .ok p => match checkEach check l with
      | .error x => .error x
      | .ok r => .ok ((e, p) :: r)

/-- Is the target of R211 not an enabled core? -/
def State.targetAbsent (s : State) : Bool := match s.vectorCore with | .error .page => true | _ => false

/-- The checks of a vector memory instruction (R211 to R214), those of each element by `check`: the index capacity, the target, each
element. SHAPE comes before the target of R211, and whatever the mask (DESIGN CHOICE, log 55: R213 speaks of VL only, and no rule orders
the two). -/
def Ctx.placesBy (c : Ctx) (m : VAddr) (v : VArgs) (check : Nat → Except Stop Place) : Except Stop (List (Nat × Place)) :=
  let iw := v.indexWidth c.sew
  let es := c.items m v
  if m = .indexed ∧ 8192 < c.vl * iw then .error (.trap (c.trapInfo .shape 0 (firstOver iw) (c.lane (firstOver iw))))
  else match es with
    | [] => .ok []
    | e :: _ =>
      if c.s.targetAbsent then .error (.trap (c.itemInfo m .page (c.address m v e) e)) else checkEach check es

/-- Every check of a vector memory instruction: those of every active element (R214), and then, for the elements that are read, abort
completions in ascending order (R296). -/
def Ctx.places (c : Ctx) (m : VAddr) (a : Access) (v : VArgs) : Except Stop (List (Nat × Place)) :=
  match c.placesBy m v (c.checkAccess m a v) with
  | .error x => .error x
  | .ok ps => match ps.find? (c.itemAborts m a) with
    | some (e, _) => .error (.abort (c.itemInfo m .data (c.address m v e) e))
    | none => .ok ps

/-! ### Loads (R215, R218, R219) -/

/-- Write register name `n` from the bits of `m` elements of width `w`. -/
def Ctx.putBits (c : Ctx) (n w m bits : Nat) : Ctx :=
  if c.vl = 0 then c
  else
    let p := c.s.h.loops.physical n
    { c with v := c.v.set p { bits := BitVec.ofNat 8192 bits, tag := m * w }, vw := c.vw ||| BitVec.ofNat 48 (2 ^ p) }

/-- Write register name `n` from a list of elements. -/
def Ctx.putL (c : Ctx) (n w : Nat) (l : List Nat) : Ctx := c.putBits n w l.length (packList w l)

/-- Number of elements that a load loads: VL, or the effective length of a trimmed one (R219). -/
def Ctx.loads (c : Ctx) : Nat := min c.vl (c.cv.trim.getD c.vl)

/-- The bits of element `e` in the bytes at a place (R215): little-endian; below SEW 8, a field of the byte. -/
def subElem (w e b : Nat) : Nat := if w < 8 then b / 2 ^ (e * w % 8) % 2 ^ w else b

/-- What the translations of a memory word's elements leave (R245): those of its issue, made again as it runs. -/
def Ctx.enteredItems (c : Ctx) (m : VAddr) (v : VArgs) : Ctx :=
  if c.s.h.space = 0 then c.effect (·.enteredAll ((c.items m v).map (c.address m v))) else c

/-- The reads of the vector agent at the places of a load's elements have been made (R269, R278). -/
def Ctx.readsAt (c : Ctx) (n : Nat) (ps : List (Nat × Place)) : Ctx :=
  c.effect (fun s => ps.foldl (fun s p => s.afterRead (.vector s.h.id) p.2.key n) s)

/-- Elements 0 to n - 1: those checked receive `f`, the others their old value. -/
def Ctx.merge (c : Ctx) (vd : Nat) (f : Nat → Place → Nat) : List (Nat × Place) → Nat → Nat → List Nat
  | _, _, 0 => []
  | [], e, n + 1 => c.elem c.sew vd e :: c.merge vd f [] (e + 1) n
  | (i, p) :: l, e, n + 1 =>
    if i = e then f e p :: c.merge vd f l (e + 1) n else c.elem c.sew vd e :: c.merge vd f ((i, p) :: l) (e + 1) n

/-- VLD, VLDS, VLDX; a trimmed load ends at its effective length (R219). One that a read step of the convoy's HPROBE has read for is not read
again (R260). -/
def loadOp (m : VAddr) (wide : Bool) : VOp :=
  { ill := fun _ s => wide && s.h.sew < 8
    run := fun v c =>
      if c.vl = 0 then .ok c
      else match c.cv.loaded with
        | some b => .ok (c.putBits v.vd.toNat c.sew c.loads b)
        | none => match c.places m .load v with
          | .error x => .error x
          | .ok ps =>
            let n := c.itemBytes m
            .ok (((c.enteredItems m v).readsAt n ps).putL v.vd.toNat c.sew (c.merge v.vd.toNat
              (fun e p => subElem c.sew e (c.s.readN true p.key n)) ps 0 c.loads)) }

def vldOp : VOp := loadOp .unit false
def vldsOp : VOp := loadOp .strided true
def vldxOp : VOp := loadOp .indexed true

/-- VLDK (R218). -/
def vldkOp : VOp :=
  { ill := anyFmt
    run := fun v c =>
      if c.vl = 0 then .ok c
      else match c.cv.loaded with
        | some b => .ok (c.putK v.vd.toNat (bitAt b))
        | none => match c.places .bytes .load v with
          | .error x => .error x
          | .ok ps =>
            let bits := packList 8 (ps.map (fun p => (c.s.readByte true p.2.key).toNat))
            .ok (((c.enteredItems .bytes v).readsAt 1 ps).putK v.vd.toNat (bitAt bits)) }

/-! ### Stores (R158, R216, R218) -/

/-- Make stores in order; into the strip store buffer when it has room for all of them (R158). -/
def State.storeAll (s : State) (l : List Store) : State :=
  if s.h.loops.opn ∧ ¬ s.h.loops.sealed ∧ (chunksOf (s.h.ssb ++ l)).length ≤ 1024 then
    s.mapH (fun h => { h with ssb := h.ssb ++ l })
  else l.foldl (fun s st => s.store st) s

/-- The store of `n` bytes that an element of a vector store makes in context `x`. -/
def storeOf (x : BitVec 16) (va : Word) (p : Place) (n d : Nat) : Store :=
  { vector := true, ctxid := x, va := va, cells := cellsOf p.key n d, mask := 0xFF, repl := p.repl, atom := p.atom }

/-- The store of element `e` of width `w` below 8: its bits of the byte, and no other (R216). -/
def bitsOf (x : BitVec 16) (va : Word) (p : Place) (w e d : Nat) : Store :=
  let lo := 2 ^ (e * w % 8)
  { vector := true, ctxid := x, va := va, cells := [(p.key, BitVec.ofNat 8 (d % 2 ^ w * lo))], mask := BitVec.ofNat 8 ((2 ^ w - 1) * lo),
    repl := p.repl, atom := p.atom }

/-- The store of element `e`. -/
def Ctx.elemStore (c : Ctx) (m : VAddr) (v : VArgs) (p : Nat × Place) : Store :=
  let d := c.elem c.sew v.vd.toNat p.1
  let va := c.address m v p.1
  if c.sew < 8 then bitsOf c.s.h.ctxid va p.2 c.sew p.1 d else storeOf c.s.h.ctxid va p.2 (c.itemBytes m) d

/-- A store of some bits of a byte with one of other bits of the byte. -/
def Store.join (a b : Store) : Store :=
  { a with cells := (a.cells.zip b.cells).map (fun p => (p.1.1, p.1.2 ||| p.2.2)), mask := a.mask ||| b.mask }

/-- A store in front of others; one to the byte of the next makes one write with it, which is indivisible (R216). -/
def Store.onto (st : Store) : List Store → List Store
  | [] => [st]
  | b :: l => if st.va = b.va then st.join b :: l else st :: b :: l

/-- The stores of the elements at their places, in ascending order; below SEW 8 one for each byte. -/
def Ctx.elemStores (c : Ctx) (m : VAddr) (v : VArgs) (ps : List (Nat × Place)) : List Store :=
  let l := ps.map (c.elemStore m v)
  if c.sew < 8 then l.foldr Store.onto [] else l

/-- VST, VSTS, VSTX. -/
def storeOp (m : VAddr) (wide : Bool) : VOp :=
  { ill := fun _ s => wide && s.h.sew < 8
    run := fun v c =>
      if c.vl = 0 then .ok c
      else match c.places m .store v with
        | .error x => .error x
        | .ok ps =>
          .ok ((c.enteredItems m v).effect (·.storeAll (c.elemStores m v ps))) }

def vstOp : VOp := storeOp .unit false
def vstsOp : VOp := storeOp .strided true
def vstxOp : VOp := storeOp .indexed true

/-- VSTK (R218). -/
def vstkOp : VOp :=
  { ill := anyFmt
    run := fun v c =>
      if c.vl = 0 then .ok c
      else match c.places .bytes .store v with
        | .error x => .error x
        | .ok ps =>
          let bits := (c.k.getD v.vd.toNat 0).toNat % 2 ^ c.vl
          .ok ((c.enteredItems .bytes v).effect (·.storeAll (ps.map (fun p => storeOf c.s.h.ctxid (c.address .bytes v p.1) p.2 1 (bits / 2 ^ (8 * p.1) % 256))))) }

/-! ### Scatter-adds and atomics (R217, R249) -/

/-- One indivisible read-modify-write of the vector agent at its home, noted: the new state, and the old value. -/
def State.modify (s : State) (p : Place) (n : Nat) (f : Nat → Nat) : State × Nat :=
  let s1 := s.beforeHome (.vector s.h.id) p.key n
  let old := readLE s1.mem.read p.key n
  (s1.note p.key n (f old), old)

/-- Elements in ascending order, each an indivisible read-modify-write; the old values. The order of arrival at memory is open in device
memory (R217, R248): DESIGN CHOICE, log 48. -/
def State.modifyAll (s : State) (n : Nat) (f : Nat → Nat → Nat) : List (Nat × Place) → State × List Nat
  | [] => (s, [])
  | (e, p) :: l =>
    let r := s.modify p n (f e)
    let q := r.1.modifyAll n f l
    (q.1, r.2 :: q.2)

/-- VT that VSXADD accepts (R217). -/
def sxaddVt (vt : BitVec 11) : Bool :=
  ((vtFmt vt == 0 || vtFmt vt == 1) && 8 ≤ vtSew vt) || (vtFmt vt == 2 && 32 ≤ vtSew vt)

/-- The add of VSXADD and its flags. -/
def sxAdd (vt : BitVec 11) (old d : Nat) : Nat × BitVec 5 :=
  if vtFmt vt = 2 then fpAdd (formatOf vt) (vtRm vt) old d else ((old + d) % 2 ^ vtSew vt, 0)

/-- Flags of the adds, element by element on the values they meet. -/
def sxFlags (vt : BitVec 11) (d : Nat → Nat) : List (Nat × Nat) → BitVec 5
  | [] => 0
  | (e, old) :: l => (sxAdd vt old (d e)).2 ||| sxFlags vt d l

/-- The effect of a word that seals an open strip, where it acts on no element (R63, R159). -/
def Ctx.sealed (c : Ctx) : Ctx := c.effect State.seal

/-- VSXADD (R217): flags are dropped at device memory. At VL = 0 it still seals an open strip (R63, R159). -/
def vsxaddOp : VOp :=
  { ill := fun _ s => !sxaddVt s.h.vt
    run := fun v c =>
      if c.vl = 0 then .ok c.sealed
      else match c.places .indexed .atomic v with
        | .error x => .error x
        | .ok ps =>
          let d := c.elem c.sew v.vd.toNat
          let r := c.s.beforeAtomic.modifyAll (c.sew / 8) (fun e old => (sxAdd c.vt old (d e)).1) ps
          let c1 := (c.enteredItems .indexed v).performNoted r.1
          .ok (if c.s.h.space = 0 then c1 else c1.flag (sxFlags c.vt d ((ps.map (·.1)).zip r.2))) }

/-- VT that a VAMO accepts (R249). -/
def vamoVt (vt : BitVec 11) : Bool := (vtFmt vt == 0 || vtFmt vt == 1) && 32 ≤ vtSew vt

/-- The old values in the places of their elements. -/
def Ctx.mergeList (c : Ctx) (vd : Nat) : List (Nat × Nat) → Nat → Nat → List Nat
  | _, _, 0 => []
  | [], e, n + 1 => c.elem c.sew vd e :: c.mergeList vd [] (e + 1) n
  | (i, a) :: l, e, n + 1 =>
    if i = e then a :: c.mergeList vd l (e + 1) n else c.elem c.sew vd e :: c.mergeList vd ((i, a) :: l) (e + 1) n

/-- A vector atomic (R249). At VL = 0 it still seals an open strip (R63, R159). -/
def vamoOp (f : Bool → Nat → Nat → Nat → Nat) : VOp :=
  { ill := fun _ s => !vamoVt s.h.vt
    run := fun v c =>
      if c.vl = 0 then .ok c.sealed
      else match c.places .indexed .atomic v with
        | .error x => .error x
        | .ok ps =>
          let r := c.s.beforeAtomic.modifyAll (c.sew / 8)
            (fun e old => f (fmtSigned c.vt) c.sew old (c.elem c.sew v.vd.toNat e)) ps
          let c1 := (c.enteredItems .indexed v).performNoted r.1
          .ok (c1.putL v.vd.toNat c.sew (c.mergeList v.vd.toNat ((ps.map (·.1)).zip r.2) 0 c.vl)) }

def vamoaddOp : VOp := vamoOp (fun _ w a b => vAdd w a b 0)
def vamominOp : VOp := vamoOp redMin
def vamomaxOp : VOp := vamoOp redMax

/-! ### Readiness at issue (R212, R219, R222) -/

/-- What a vector memory instruction needs of the interlocks. -/
structure MemForm where
  addr  : VAddr
  write : Bool
  plain : Bool
  v     : VArgs

/-- The form of a VLSU instruction: `plain` for VLD, the only one that R219 trims. -/
def memForm : Instr → Option MemForm
  | .vld v => some { addr := .unit, write := false, plain := true, v := v }
  | .vlds v => some { addr := .strided, write := false, plain := false, v := v }
  | .vldx v => some { addr := .indexed, write := false, plain := false, v := v }
  | .vst v => some { addr := .unit, write := true, plain := false, v := v }
  | .vsts v => some { addr := .strided, write := true, plain := false, v := v }
  | .vstx v => some { addr := .indexed, write := true, plain := false, v := v }
  | .vsxadd v => some { addr := .indexed, write := true, plain := false, v := v }
  | .vamoadd v => some { addr := .indexed, write := true, plain := false, v := v }
  | .vamomin v => some { addr := .indexed, write := true, plain := false, v := v }
  | .vamomax v => some { addr := .indexed, write := true, plain := false, v := v }
  | .vldk v => some { addr := .bytes, write := false, plain := false, v := v }
  | .vstk v => some { addr := .bytes, write := true, plain := false, v := v }
  | _ => none

/-- The stream bound to a tile. -/
def State.boundStream (s : State) (t : Tile) : Option Stream :=
  if t.bound then (s.hartOf t.hart).streams.getD t.stream none else none

/-- Effective length of a trimmed load (R219). -/
def trimLength (q : Stream) (o sew : Nat) : Nat :=
  if o < q.n * q.width then (q.n * q.width - o) * 8 / sew else 0

/-- Tiles that elements name, each once. -/
def tilesNamed (as : List Word) : List Nat :=
  (as.map (fun a => a.toNat / 2 ^ 32)).foldl (fun l t => if l.contains t then l else l ++ [t]) []

/-- What an issue finds for the words of a convoy: the tiles it uses, the length of a trimmed load, what stops a slot, the addresses it
translates, whether a word so far holds the retirement, and whether one reads a table, whose result is not known yet. -/
structure Gate where
  tiles   : List TileUse := []
  trim    : Option Nat := none
  refused : Option (Nat × Stop) := none
  vas     : List Word := []
  held    : Bool := false
  late    : Bool := false

/-- The interlocks of a memory instruction in TILE space at core `core` (R209, R212, R219, R269). One whose checks fail issues and is refused; an
abort completion is no such check, and is met once the convoy has issued. -/
def Ctx.gateTile (c : Ctx) (f : MemForm) (core : Nat) (as : List Word) : Option Gate :=
  let ts := tilesNamed as
  let uses := ts.filterMap (c.s.tileUse core)
  match c.placesBy f.addr f.v (c.checkAccess f.addr (if f.write then .store else .load) f.v) with
  | .error x => some { tiles := uses, refused := some (c.pos, x) }
  | .ok ps =>
    match ts.filter (fun t => (c.s.tileOf core t).state == .filling || (c.s.tileOf core t).state == .draining), ts with
    | [], _ =>
      if ps.any (fun p => c.s.streamHolds f.write core (p.2.key - localKey core 0) (c.itemBytes f.addr)) then none
      else some { tiles := uses }
    | [t], [_] =>
      let e := c.s.tileOf core t
      (match c.s.boundStream e with
      | some q =>
        if f.plain ∧ f.v.km = 15 ∧ e.state = .filling ∧ e.bound then
          let n := trimLength q ((as.headD 0).toNat % 2 ^ 32) c.sew
          if n = 0 then none else some { tiles := uses, trim := some n }
        else none
      | none => none)
    | _, _ => none

/-- The interlocks on a vector memory instruction before it issues: `none` while it has to wait (R212, R219, R222, R269). A read in VSP space waits for
no stream that fills a tile there: it may return the bytes' old contents (R211, R220). -/
def Ctx.gate (c : Ctx) (f : MemForm) : Option Gate :=
  if c.vl = 0 then some {}
  else
    let as := (c.items f.addr f.v).map (c.address f.addr f.v)
    let n := c.itemBytes f.addr
    if c.s.h.space = 0 then
      (if as.any (fun a => c.s.h.interlocked f.write a.toNat n) then none else some { vas := as })
    else match c.s.vectorCore with
      | .error _ => some {}
      | .ok core =>
        if c.s.h.space = 2 then c.gateTile f core as
        else if c.s.h.space == 1 && f.write && as.any (fun a => c.s.streamHolds true core a.toNat n) then none
        else some {}

end Sys2Proof.Machine
end

