-- ==== Sys2Proof/Machine/Hash.lean ====
section
/-!
DEFINITION. Sys2Proof/Machine/Hash.lean: hash families, table descriptors, probes, inserts, deletes, migrations (R251 to
R263 of spec/15_hash_tables.md).
-/
namespace Sys2Proof.Machine

/-! ### Families (Table 15.3) -/

def hfK (h : Word) : Nat := field h 0 5
def hfL (h : Word) : Nat := field h 5 3 + 1
def hfC0 (h : Word) : Nat := field h 8 9
def hfF (h : Word) : Nat := field h 17 3

/-- Codes per pane row. -/
def hfCodes (h : Word) : Nat := hfL h * (1 + hfF h)

/-- The checks of R256. -/
def familyOk (h : Word) : Bool :=
  h == 0 || (h.toNat < 2 ^ 20 && 1 ≤ hfK h && hfK h ≤ 28 && hfCodes h ≤ 8)

/-- H register number `n`. -/
def Hart.hr (h : Hart) (n : Nat) : Word := h.hf.getD n 0

def hfsetOp : VOp :=
  { ill := anyFmt
    run := fun v c =>
      let x := c.rx v.xs
      if familyOk x then .ok (c.effect (fun s => s.mapH (fun h => { h with hf := h.hf.set v.hHS x })))
      else c.refuse .ill c.wordAddress }

/-- VT of Table 15.6. -/
def hashVt (vt : BitVec 11) : Bool := vtSew vt == 32 && (vtFmt vt == 0 || vtFmt vt == 1)

/-- ILL of the instructions that name a family (R251, R255). -/
def familyIll (v : VArgs) (s : State) : Bool := !hashVt s.h.vt || s.h.hr v.hHS == 0

/-! ### Codes (R257) -/

/-- Is an element above zero, and its key in the order of magnitudes? -/
def signMag (ty : PaneType) (a : Nat) : Bool × Nat :=
  match ty with
  | .int32 => (0 < toSigned 32 a, (toSigned 32 a).natAbs)
  | .int64 => (0 < toSigned 64 a, (toSigned 64 a).natAbs)
  | _ =>
    let f := paneFormat ty.width
    if (fpRead f a).isNan then (false, 2 ^ 64)
    else (a < fpSignBit f && a != 0, a % fpSignBit f)

/-- The code of flip round `i` from the signs and magnitudes of its k columns. -/
def codeOf (i : Nat) (xs : List (Bool × Nat)) : Nat :=
  let k := xs.length
  let mag := fun b => (xs.getD b (false, 0)).2
  let before := fun a b => mag a < mag b || (mag a == mag b && a < b)
  let flip := if 0 < i ∧ i ≤ k then (upTo k).find? (fun b => ((upTo k).filter (fun a => before a b)).length + 1 == i) else none
  packFrom 1 (fun b => ((xs.getD b (false, 0)).1 != (flip == some b)).toNat) 0 k

/-- Rows that HCODE reads. -/
def codeRows (h : Word) (vl : Nat) : BitVec 16 := rowBits 0 (min 16 ((vl - 1) / hfCodes h + 1))

/-- The pane that HCODE's pane field denotes: the name obeys rotation (R152, R255; log 49). -/
def Loops.hPane (l : Loops) (v : VArgs) : Nat := l.physical v.hPane

/-- HCODE (R255, R257). A SHAPE for a family whose columns pass the pane's names no element, so that EELEM and ELANE are 0 (DESIGN CHOICE, log 34: R257
gives EELEM 0, and R65 speaks of a named element). -/
def hcodeOp : VOp :=
  { ill := familyIll
    run := fun v c =>
      let h := c.s.h.hr v.hHS
      let i := c.s.h.loops.hPane v
      let p := c.s.core.pane i
      let n := BitVec.ofNat 64 i
      if c.vl = 0 then .ok c
      else if !c.s.owns i then c.refuse .perm n
      else if p.ty = .none then c.refuse .shape n
      else if 16 * hfCodes h < c.vl then c.refuseAt .shape 0 (16 * hfCodes h)
      else if 8192 / p.ty.width < hfC0 h + hfL h * hfK h then c.refuse .shape 0
      else if p.failed then c.refuse .data n
      else .ok (c.putV v.vd.toNat 32 c.vl (fun e =>
        let j := e % hfCodes h
        let row := p.rows.getD (e / hfCodes h) 0
        codeOf (j / hfL h) ((upTo (hfK h)).map (fun b =>
          signMag p.ty (elemOf p.ty.width row (hfC0 h + j % hfL h * hfK h + b)))))) }

/-! ### Tables (R252 to R254) -/

/-- Why a table access fails: denied by translation, or by a check of R253 or R254; the address that EVAL takes. -/
structure HFail where
  cause : Cause
  abort : Bool
  addr  : Word
  deriving DecidableEq, Repr

/-- A failed translation. -/
def HFail.of (d : Denial) (a : Word) : HFail :=
  match d with
  | .page => { cause := .page, abort := false, addr := a }
  | .perm => { cause := .perm, abort := false, addr := a }
  | .abort => { cause := .data, abort := true, addr := a }

/-- A table as one instruction or pass reaches it: address and key of the descriptor, how lines are checked, whose context
and mode, how bytes are read. -/
structure Table where
  va    : Word
  key   : Nat
  lines : Access
  ctxid : BitVec 16
  sup   : Bool
  read  : State → Nat → Byte

/-- Doubleword `i` of the descriptor. -/
def Table.dword (t : Table) (s : State) (i : Nat) : Word := BitVec.ofNat 64 (readLE (t.read s) (t.key + 8 * i) 8)

def Table.phase (t : Table) (s : State) : Nat := field (t.dword s 0) 16 1
def Table.rehash (t : Table) (s : State) : Bool := bitAt (t.dword s 0).toNat 15
def Table.policy (t : Table) (s : State) : Nat := field (t.dword s 0) 13 2
def Table.buckets (t : Table) (s : State) : Nat := 2 ^ field (t.dword s 0) 8 5
def Table.chNext (t : Table) (s : State) : Nat := field (t.dword s 3) 24 24
def Table.chSize (t : Table) (s : State) : Nat := field (t.dword s 3) 0 24
def Table.cursor (t : Table) (s : State) : Nat := field (t.dword s 6) 0 29

/-- The family that the table's codes come from (R254). -/
def Table.suits (t : Table) (s : State) (fam : Option Word) : Bool :=
  match fam with | none => true | some h => field h 0 20 == field (t.dword s 4) 0 20

/-- Addresses of bucket `b` of half `h` and of chain line `j` (R253). -/
def Table.bucket (t : Table) (s : State) (h b : Nat) : Word := t.dword s 1 + BitVec.ofNat 64 (64 * (h * t.buckets s + b))
def Table.chainLine (t : Table) (s : State) (j : Nat) : Word := t.dword s 2 + BitVec.ofNat 64 (64 * (j - 1))

/-- Is the descriptor good (R254), for family `fam` if one is named? -/
def Table.good (t : Table) (s : State) (atom : Bool) (fam : Option Word) : Bool :=
  let d := t.dword s
  atom && field (d 0) 0 8 == 1 && field (d 0) 17 47 == 0 && field (d 3) 48 16 == 0 && field (d 4) 40 24 == 0
    && field (d 6) 29 35 == 0 && field (d 0) 8 5 ≤ 28 && t.policy s != 3 && field (d 1) 0 6 == 0 && field (d 2) 0 6 == 0
    && !(t.rehash s && field (d 5) 0 2 != 0) && t.chNext s != 0 && t.chNext s ≤ t.chSize s + 1
    && t.cursor s ≤ t.buckets s && !(t.cursor s != 0 && !t.rehash s)
    && t.suits s fam

/-- Open a table (R254): ALIGN, PAGE or PERM as a load, an abort completion, then HASH unless `ok` holds of the table and its page. -/
def openTable (s : State) (va : Word) (lines : Access) (c : BitVec 16) (sup : Bool) (read : State → Nat → Byte)
    (ok : Table → Bool → Bool) : Except HFail Table :=
  if va.toNat % 64 ≠ 0 then .error { cause := .align, abort := false, addr := va }
  else match s.translateAs c sup .load va with
    | .error d => .error (HFail.of d va)
    | .ok p =>
      let t : Table := { va := va, key := p.key, lines := lines, ctxid := c, sup := sup, read := read }
      if s.readAborts true p.key 64 then .error (HFail.of .abort va)
      else if ok t p.atom then .ok t else .error { cause := .hash, abort := false, addr := va }

/-- Translate a line of the table. -/
def Table.place (t : Table) (s : State) (va : Word) : Except HFail Nat :=
  match s.translateAs t.ctxid t.sup t.lines va with
  | .error d => .error (HFail.of d va)
  | .ok p => if s.readAborts true p.key 64 then .error (HFail.of .abort va) else .ok p.key

/-- Header word and slot `i` of the line at a key. -/
def Table.header (t : Table) (s : State) (k : Nat) : Nat := readLE (t.read s) k 4
def Table.slot (t : Table) (s : State) (k i : Nat) : Nat := readLE (t.read s) (k + 4 + 4 * i) 4

/-- Marks an empty slot. -/
def emptySlot : Nat := 0xFFFFFFFF

/-- A line and its chain, first to last: address and key (R253). -/
def Table.chainFrom (t : Table) (s : State) : Nat → Word → Except HFail (List (Word × Nat))
  | fuel, va => match t.place s va with
    | .error e => .error e
    | .ok k =>
      let j := t.header s k / 256
      if j = 0 then .ok [(va, k)]
      else if t.chSize s < j then .error { cause := .hash, abort := false, addr := va }
      else match fuel with
        | 0 => .error { cause := .hash, abort := false, addr := va }
        | n + 1 => match t.chainFrom s n (t.chainLine s j) with
          | .error e => .error e
          | .ok l => .ok ((va, k) :: l)

/-- The addresses that a walk along a line and its chain translates, also where a check ends it. -/
def Table.chainSeen (t : Table) (s : State) : Nat → Word → List Word
  | fuel, va => match t.place s va with
    | .error _ => [va]
    | .ok k =>
      let j := t.header s k / 256
      if j = 0 ∨ t.chSize s < j then [va]
      else match fuel with
        | 0 => [va]
        | n + 1 => va :: t.chainSeen s n (t.chainLine s j)

/-- The new-family code of a row id (R252), read as a load. -/
def Table.newCode (t : Table) (s : State) (id : Nat) : Except HFail Nat :=
  let a := t.dword s 5 + BitVec.ofNat 64 (4 * id)
  match s.translateAs t.ctxid t.sup .load a with
  | .error d => .error (HFail.of d a)
  | .ok p => if s.readAborts true p.key 4 then .error (HFail.of .abort a) else .ok (readLE (t.read s) p.key 4)

/-- line(c, …) of R258. -/
def Table.locate (t : Table) (s : State) (code : Nat) (new : Except HFail Nat) : Except HFail Word :=
  let bo := code % t.buckets s
  if !t.rehash s ∨ t.cursor s ≤ bo then .ok (t.bucket s (t.phase s) bo)
  else match new with
    | .error e => .error e
    | .ok n => .ok (t.bucket s (1 - t.phase s) (n % t.buckets s))

/-! ### Changes to a table -/

/-- Write `n` bytes of a table as the hart's vector agent, noted until the step is performed. -/
def State.tableWrite (s : State) (k n v : Nat) : State := s.note k n v

/-- Replace the field [lo + n - 1 : lo] of doubleword `i` of the descriptor. -/
def Table.setField (t : Table) (s : State) (i lo n v : Nat) : State :=
  let d := (t.dword s i).toNat
  s.tableWrite (t.key + 8 * i) 8 (d - d / 2 ^ lo % 2 ^ n * 2 ^ lo + v % 2 ^ n * 2 ^ lo)

/-- Add 1 to a counter of doubleword 7, saturating. -/
def Table.count (t : Table) (s : State) (lo n : Nat) : State :=
  t.setField s 7 lo n (min (2 ^ n - 1) (field (t.dword s 7) lo n + 1))

def Table.countInsert (t : Table) (s : State) : State := t.count s 0 32
def Table.countRefusal (t : Table) (s : State) : State := t.count s 32 16
def Table.countEviction (t : Table) (s : State) : State := t.count s 48 16

/-- Header with another COUNT. -/
def withCount (h n : Nat) : Nat := h / 256 * 256 + n % 16 * 16 + h % 16

/-- Put an id into slot `i` of a line, one more occupied. -/
def Table.fill (t : Table) (s : State) (k i id : Nat) : State :=
  let h := t.header s k
  (s.tableWrite (k + 4 + 4 * i) 4 id).tableWrite k 4 (withCount h (min 15 (h / 16 % 16 + 1)))

/-- Set a line empty. -/
def State.emptyLine (s : State) (k : Nat) : State := s.tableWrite k 64 ((2 ^ 480 - 1) * 2 ^ 32)

/-- Lowest slot of a line that holds `id`. -/
def Table.findSlot (t : Table) (s : State) (k id : Nat) : Option Nat := (upTo 15).find? (fun i => t.slot s k i == id)

/-- Outcomes of an insert (R258, R259). -/
inductive Inserted where
  | present | done | evicted (id : Nat) | refused
  deriving DecidableEq, Repr

/-- Insert an id at a line (R258): the lowest empty slot of the line and then of its chain, else the policy. CHNEXT goes from 0xFFFFFF to 0, its 24
bits (DESIGN CHOICE, log 34: at CHSIZE = 0xFFFFFF the sum does not fit, and the spec is silent). -/
def Table.insert (t : Table) (s : State) (va : Word) (id : Nat) : Except HFail (State × Inserted) :=
  match t.chainFrom s (t.chSize s) va with
  | .error e => .error e
  | .ok l =>
    if l.any (fun p => (t.findSlot s p.2 id).isSome) then .ok (s, .present)
    else match l.findSome? (fun p => (t.findSlot s p.2 emptySlot).map (fun i => (p.2, i))) with
      | some (k, i) => .ok (t.fill s k i id, .done)
      | none =>
        let k := match l with | p :: _ => p.2 | [] => 0
        if t.policy s = 1 then
          let h := t.header s k
          let e := if h % 16 = 15 then 0 else h % 16
          .ok ((s.tableWrite (k + 4 + 4 * e) 4 id).tableWrite k 4 (h / 16 * 16 + (e + 1) % 15), .evicted (t.slot s k e))
        else if t.policy s = 2 ∧ t.chNext s ≤ t.chSize s then
          let j := t.chNext s
          match t.place s (t.chainLine s j) with
          | .error e => .error e
          | .ok n =>
            let lastKey := match l.getLast? with | some p => p.2 | none => k
            let s1 := t.fill (s.emptyLine n |>.tableWrite n 4 0) n 0 id
            let s2 := s1.tableWrite lastKey 4 (j * 256 + t.header s1 lastKey % 256)
            .ok (t.setField s2 3 24 24 (j + 1), .done)
        else .ok (s, .refused)

/-- Remove every slot that holds an id from a line and its chain (R259): whether there was one. -/
def Table.remove (t : Table) (s : State) (va : Word) (id : Nat) : Except HFail (State × Bool) :=
  match t.chainFrom s (t.chSize s) va with
  | .error e => .error e
  | .ok l =>
    let clear := fun (s : State) (k : Nat) =>
      let hits := (upTo 15).filter (fun i => t.slot s k i == id)
      let h := t.header s k
      if hits.isEmpty then s
      else (hits.foldl (fun s i => s.tableWrite (k + 4 + 4 * i) 4 emptySlot) s).tableWrite k 4
        (withCount h (h / 16 % 16 - hits.length))
    .ok (l.foldl (fun s p => clear s p.2) s, l.any (fun p => (t.findSlot s p.2 id).isSome))

/-! ### Instructions on a table -/

/-- A failure of a slot at element `e`, in its lane (R65). -/
def Ctx.hashFail (c : Ctx) (f : HFail) (e : Nat) : Stop :=
  let t := c.trapInfo f.cause f.addr e (c.lane e)
  if f.abort then .abort t else .trap t

/-- A failure of the descriptor: EELEM 0, and ELANE 0, since no element is named (R254, R286; log 34). -/
def Ctx.descFail (c : Ctx) (f : HFail) : Stop :=
  let t := c.trapInfo f.cause f.addr 0 0
  if f.abort then .abort t else .trap t

/-- The failure that the hart holds for a descriptor (R261). -/
def Hart.heldFor (h : Hart) (desc : Word) : Option HeldFailure := h.heldFail.find? (·.desc == desc)

/-- Reads as the hart's vector agent reads memory. -/
def readAgent (s : State) (k : Nat) : Byte := s.readByte true k

/-- Open the table that a slot names, after the failure the hart may hold for it (R261). The descriptor is checked as the convoy issues,
with the hart's own stores to it (R254); the family again at every step, so that none is used silently once a rehash has replaced
it (R264). -/
def Ctx.table (c : Ctx) (v : VArgs) (lines : Access) (read : State → Nat → Byte) (fam : Option Word) : Except Stop Table :=
  let va := c.rx v.xs
  let ok := fun (t : Table) atom =>
    let r : Table := { t with read := readAgent }
    if c.cv.issued then r.suits c.s fam else r.good c.s atom fam
  match c.s.h.heldFor va with
  | some f => .error (.held f.desc (c.trapInfo f.cause f.address 0 0))
  | none => match openTable c.s va lines c.s.h.ctxid c.s.h.trap.sup read ok with
    | .error f => .error (c.descFail f)
    | .ok t => .ok t

/-- A HASH word at VL = 0 reads, checks and writes nothing (R63, R259); the failure that the hart holds for the descriptor it names is
reported all the same (R261; log 34). -/
def Ctx.unlessHeld (c : Ctx) (v : VArgs) : Slot :=
  match c.s.h.heldFor (c.rx v.xs) with
  | some f => .error (.held f.desc (c.trapInfo f.cause f.address 0 0))
  | none => .ok c

/-- Reads at the home, after the agent's own writes have been performed. -/
def readHome (s : State) (k : Nat) : Byte := s.mem.read k

/-- One HINS element: the state after it, the bit of Kd, the element of VE. -/
def Table.hins (t : Table) (s : State) (code id : Nat) : Except HFail (State × Bool × Nat) :=
  if id = emptySlot then .ok (t.countRefusal s, true, emptySlot)
  else match t.locate s code (t.newCode s id) with
    | .error e => .error e
    | .ok va => match t.insert s va id with
      | .error e => .error e
      | .ok (s1, .present) => .ok (s1, false, emptySlot)
      | .ok (s1, .refused) => .ok (t.countRefusal s1, true, emptySlot)
      | .ok (s1, .done) => .ok (t.countInsert s1, false, emptySlot)
      | .ok (s1, .evicted old) => .ok (t.countEviction (t.countInsert s1), false, old)

/-- One HDEL element. -/
def Table.hdel (t : Table) (s : State) (code id : Nat) : Except HFail (State × Bool × Nat) :=
  if id = emptySlot then .ok (s, true, 0)
  else match t.locate s code (t.newCode s id) with
    | .error e => .error e
    | .ok va => match t.remove s va id with
      | .error e => .error e
      | .ok (s1, b) => .ok (s1, !b, 0)

/-- Elements in ascending order (R260): the state after them, and what each gives. Every element is checked before any has its effect (R259): one
that is refused refuses the word, also where a lower one meets an abort completion, of which the first, `cut`, is kept meanwhile. -/
def tableSteps (f : State → Nat → Except HFail (State × Bool × Nat)) (cut : Option (HFail × Nat)) (s : State) :
    List Nat → Except (HFail × Nat) (State × List (Nat × Bool × Nat))
  | [] => match cut with
    | some x => .error x
    | none => .ok (s, [])
  | e :: l => match f s e with
    | .error x => if x.abort then tableSteps f (cut.orElse (fun _ => some (x, e))) s l else .error (x, e)
    | .ok (s1, r) => match tableSteps f cut s1 l with
      | .error x => .error x
      | .ok (s2, rs) => .ok (s2, (e, r) :: rs)

/-- Bit and value that the steps gave element `e`. -/
def stepOf (rs : List (Nat × Bool × Nat)) (e : Nat) : Option (Bool × Nat) := (rs.find? (fun r => r.1 == e)).map (·.2)

/-- The chain lines that the steps from one state to another have opened (R258). -/
def Table.opened (t : Table) (s s1 : State) : List Word :=
  (upTo (t.chNext s1 - t.chNext s)).map (fun i => t.chainLine s (t.chNext s + i))

/-- HINS and HDEL: codes in vs1, row ids in vs2, Kd in the vd field. At VL = 0 they still seal an open strip (R63, R159). -/
def updateOp (step : Table → State → Nat → Nat → Except HFail (State × Bool × Nat)) (put : VArgs → Ctx → List (Nat × Bool × Nat) → Ctx) :
    VOp :=
  { ill := familyIll
    run := fun v c =>
      if c.vl = 0 then (c.unlessHeld v).map Ctx.sealed
      else match c.table v .atomic readHome (some (c.s.h.hr v.hHS)) with
        | .error x => .error x
        | .ok t =>
          let es := (c.actives v).filter c.reaches
          let f := fun s e => step t s (c.elem 32 v.vs1.toNat e) (c.elem 32 v.vs2.toNat e)
          match tableSteps f none c.s.beforeAtomic.atHome es with
          | .error (x, e) => .error (c.hashFail x e)
          | .ok (s1, rs) =>
            let c1 := (c.performNoted s1).effect (·.enteredAll (t.opened c.s s1))
            .ok (put v (c1.putK v.vd.toNat (fun e => match stepOf rs e with | some r => r.1 | none => c.mask v.vd.toNat e)) rs) }

def hinsOp : VOp := updateOp Table.hins (fun v c rs => c.putV v.ve 32 c.vl (fun e =>
  match stepOf rs e with | some r => r.2 | none => c.elem 32 v.ve e))
def hdelOp : VOp := updateOp Table.hdel (fun _ c _ => c)

/-! ### Probes -/

/-- The empty line (R259). -/
def missingLine : BitVec 512 := BitVec.ofNat 512 ((2 ^ 480 - 1) * 2 ^ 32)

/-- The line `hop` positions along the chain (R259). -/
def Table.hopLine (t : Table) (s : State) : Nat → Nat → Word → Except HFail (BitVec 512)
  | hop, passed, va => match t.place s va with
    | .error e => .error e
    | .ok k =>
      match hop with
      | 0 => .ok (BitVec.ofNat 512 (readLE (t.read s) k 64))
      | n + 1 =>
        let j := t.header s k / 256
        if j = 0 then .ok missingLine
        else if t.chSize s < j ∨ t.chSize s ≤ passed then .error { cause := .hash, abort := false, addr := va }
        else t.hopLine s n (passed + 1) (t.chainLine s j)

/-- The read step of code `e` (R258, R260). -/
def Ctx.probe (c : Ctx) (v : VArgs) (t : Table) (e : Nat) : Except HFail (BitVec 512) :=
  match t.locate c.s (c.elem 32 v.vs1.toNat e) (.ok (c.elem 32 v.vs2.toNat e)) with
  | .error x => .error x
  | .ok va => t.hopLine c.s v.hop 0 va

/-- A table is read at its home, behind the agent's own writes (R260, R278). -/
def Ctx.atHome (c : Ctx) : Ctx := c.effect State.atHome

/-- The lowest active code that no step of its own has read (R260). -/
def Ctx.nextCode (c : Ctx) (v : VArgs) : Option Nat := (c.actives v).find? (fun e => !c.cv.probes.any (fun p => p.1 == e))

/-- Open the table of a probe and check that NEWC suits it (R258), as the convoy issues and for every code still to be read; where no code is
active, at the retirement too. -/
def Ctx.probeTable (c : Ctx) (v : VArgs) : Except Stop Table :=
  let asks := !c.cv.issued || (c.nextCode v).isSome
  match c.table v .load readAgent (if asks then some (c.s.h.hr v.hHS) else none) with
  | .error x => .error x
  | .ok t =>
    if (asks || (c.actives v).isEmpty) && t.rehash c.s && !v.newc then
      .error (c.descFail { cause := .hash, abort := false, addr := t.va })
    else .ok t

/-- Read the codes, those already read at a step of their own excepted. -/
def Ctx.probes (c : Ctx) (v : VArgs) (t : Table) : List Nat → Except Stop (List (Nat × BitVec 512))
  | [] => .ok []
  | e :: l => match (match c.cv.probes.find? (fun p => p.1 == e) with | some p => Except.ok p.2 | none => c.probe v t e) with
    | .error x => .error (c.hashFail x e)
    | .ok b => match c.probes v t l with
      | .error x => .error x
      | .ok r => .ok ((e, b) :: r)

/-- Place the lines read: vd, Kd (R259). -/
def Ctx.putProbes (c : Ctx) (v : VArgs) (ls : List (Nat × BitVec 512)) : Ctx :=
  let line := fun e => (ls.find? (fun p => p.1 == e)).map (·.2)
  let word := fun (b : BitVec 512) i => b.toNat / 2 ^ (32 * if i = 15 then 0 else i + 1) % 2 ^ 32
  let c1 := c.putV v.vd.toNat 32 (16 * c.vl) (fun n => match line (n / 16) with
    | some b => word b (n % 16)
    | none => c.elem 32 v.vd.toNat n)
  { c1 with
    k := c1.k.set v.kd (buildMask (16 * c.vl) (fun n => match line (n / 16) with
      | some b => if n % 16 = 15 then 256 ≤ word b 15 else word b (n % 16) != emptySlot
      | none => false)),
    kw := c1.kw ||| BitVec.ofNat 12 (2 ^ v.kd) }

def hprobeOp : VOp :=
  { ill := familyIll
    run := fun v c =>
      if c.vl = 0 then c.unlessHeld v
      else if 8 < c.vl then c.refuseAt .shape 0 8
      else match c.probeTable v with
        | .error x => .error x
        | .ok t => match c.probes v t (c.actives v) with
          | .error x => .error x
          | .ok ls => .ok (c.atHome.putProbes v ls) }

/-! ### HREHASH, HFENCE, HSTAT -/

def hrehashOp : VOp :=
  { ill := anyFmt
    run := fun v c => match c.table v .atomic readAgent none with
      | .error x => .error x
      | .ok t =>
        if !t.rehash c.s then .error (c.descFail { cause := .hash, abort := false, addr := t.va })
        else .ok (c.atHome.effect (fun s => s.seal.mapH (fun h => { h with migr := h.migr ++
          [{ desc := t.va, passes := v.modHS % 2 ^ 16, ctxid := h.ctxid, sup := h.trap.sup, age := s.dev.steps }] }))) }

/-- HFENCE (R261, R262): its convoy retires once no migration is under way; it reports the failure that the hart holds. -/
def hfenceOp : VOp :=
  { ill := anyFmt
    run := fun _ c => match c.s.h.heldFail with
      | f :: _ => .error (.held f.desc (c.trapInfo f.cause f.address 0 0))
      | [] => .ok (c.effect (fun s => s.flushClosed.drainWhere (ownVector s.h.id))) }

/-- HSTAT (R263): at every VL, whatever VT holds. -/
def hstatOp : VOp :=
  { ill := anyFmt
    run := fun v c => match c.table v .load readAgent none with
      | .error x => .error x
      | .ok t =>
        let p := c.s.h.loops.physical v.vd.toNat
        let c1 := c.atHome
        .ok { c1 with v := c.v.set p (VReg.build 64 8 (fun i => (t.dword c.s i).toNat)),
                      vw := c.vw ||| BitVec.ofNat 48 (2 ^ p) } }

/-! ### Checks and waits at issue, waits at retirement -/

/-- The check of the descriptor as the convoy issues (R254): HREHASH and HSTAT at every VL, the others at a VL above 0; that of NEWC, too, for
a probe with no active code (R258). -/
def Ctx.hashCheck (c : Ctx) (i : Instr) : Option Stop :=
  let fail := fun (r : Except Stop Table) => match r with | .error x => some x | .ok _ => none
  match i with
  | .hprobe v =>
    if c.vl = 0 ∨ 8 < c.vl then none
    else if (c.actives v).isEmpty then fail (c.probeTable v)
    else fail (c.table v .load readAgent (some (c.s.h.hr v.hHS)))
  | .hins v => if c.vl = 0 then none else fail (c.table v .atomic readAgent (some (c.s.h.hr v.hHS)))
  | .hdel v => if c.vl = 0 then none else fail (c.table v .atomic readAgent (some (c.s.h.hr v.hHS)))
  | .hrehash v => fail (c.table v .atomic readAgent none)
  | .hstat v => fail (c.table v .load readAgent none)
  | _ => none

/-- Address of the new code of a row id (R252). -/
def Table.codeAddress (t : Table) (s : State) (id : Nat) : Word := t.dword s 5 + BitVec.ofNat 64 (4 * id)

/-- Addresses of the lines that a code with its row id leads to (R253, R258), up to `n` along the chain. -/
def Table.reached (t : Table) (s : State) (code : Nat) (new : Except HFail Nat) (n : Nat) : List Word :=
  match t.locate s code new with
  | .error _ => []
  | .ok va => (t.chainSeen s (t.chSize s) va).take n

/-- Addresses that the step of a code with a row id translates in a HINS or HDEL: the new code's, where it is read, and the lines. -/
def Table.updated (t : Table) (s : State) (code id : Nat) : List Word :=
  if id = emptySlot then []
  else (if t.rehash s ∧ code % t.buckets s < t.cursor s then [t.codeAddress s id] else [])
    ++ t.reached s code (t.newCode s id) (t.chSize s + 1)

/-- The addresses that a HASH word has its table translated at: its descriptor, and what its active codes lead to (R245). -/
def Ctx.hashAddresses (c : Ctx) (i : Instr) : List Word :=
  let lines := fun (v : VArgs) (of : Table → Nat → List Word) =>
    if c.vl = 0 then []
    else c.rx v.xs :: (match c.table v .load readAgent (some (c.s.h.hr v.hHS)) with
      | .error _ => []
      | .ok t => (c.actives v).flatMap (of t))
  match i with
  | .hprobe v => lines v (fun t e => t.reached c.s (c.elem 32 v.vs1.toNat e) (.ok (c.elem 32 v.vs2.toNat e)) (v.hop + 1))
  | .hins v => lines v (fun t e => t.updated c.s (c.elem 32 v.vs1.toNat e) (c.elem 32 v.vs2.toNat e))
  | .hdel v => lines v (fun t e => t.updated c.s (c.elem 32 v.vs1.toNat e) (c.elem 32 v.vs2.toNat e))
  | .hrehash v => [c.rx v.xs]
  | .hstat v => [c.rx v.xs]
  | _ => []

/-- Is a word one that reads a table, and does it write one? -/
def readsTable : Instr → Bool
  | .hprobe _ => true
  | .hins _ => true
  | .hdel _ => true
  | .hrehash _ => true
  | .hstat _ => true
  | _ => false
def writesTable : Instr → Bool
  | .hins _ => true
  | .hdel _ => true
  | .hrehash _ => true
  | _ => false

/-- Must an access of the hart's vector agent to `n` bytes at `a` wait for a migration that it has captured, whose passes may still write them, or,
where it writes, read them (R261, R269; log 57): in the table's descriptor, its bucket array and chain lines, or its new codes? -/
def State.migrationHolds (s : State) (write : Bool) (a n : Nat) : Bool :=
  s.h.migr.any (fun m =>
    let meets := fun (lo len : Nat) => decide (lo < a + n) && decide (a < lo + len)
    meets m.desc.toNat 64 || (match s.translateAs m.ctxid m.sup .load m.desc with
      | .error _ => false
      | .ok p =>
        let t : Table := { va := m.desc, key := p.key, lines := .atomic, ctxid := m.ctxid, sup := m.sup, read := readHome }
        meets (t.dword s 1).toNat (128 * t.buckets s) || meets (t.dword s 2).toNat (64 * t.chSize s)
          || (write && meets (t.dword s 5).toNat (4 * 2 ^ 32))))

/-- Must a HASH word wait at issue for a running stream of the hart whose ranges meet the lines that it leads to, or for a migration of another
table there (R269; log 57)? -/
def Ctx.hashWaits (c : Ctx) (i : Instr) : Bool :=
  (c.hashAddresses i).any (fun a => let l := a.toNat / 64 * 64
    c.s.h.interlocked (writesTable i) l 64 || c.s.migrationHolds (writesTable i) l 64)

/-- Must a memory word wait at issue for a migration of the hart (R269; log 57)? -/
def Ctx.memoryWaits (c : Ctx) (f : MemForm) : Bool :=
  !c.s.h.migr.isEmpty && c.vl != 0 && c.s.h.space == 0 && (c.items f.addr f.v).any (fun e =>
    c.s.migrationHolds f.write (c.address f.addr f.v e).toNat (c.itemBytes f.addr))

/-- What a convoy's table words read is read at its home (R244, R278). -/
def State.tablesHome (s : State) (ws : List Instr) : State := if ws.any readsTable then s.atHome else s

/-- Must an instruction wait at issue for a migration of the table it names, at every VL (R261; log 34)? -/
def hashBusy (i : Instr) (s : State) : Bool :=
  let on := fun (v : VArgs) => s.h.migr.any (fun m => m.desc == s.h.rx v.xs)
  match i with
  | .hprobe v => on v
  | .hins v => on v
  | .hdel v => on v
  | .hrehash v => on v
  | .hstat v => on v
  | _ => false

/-- Does an instruction hold the retirement of its convoy (R188, R198, R204, R257, R262)? -/
def holdsRetirement (i : Instr) (s : State) : Bool :=
  let chained := fun (p : Nat) (rows : BitVec 16) => s.owns p && (s.core.pane p).chain &&& rows != 0
  match i with
  | .mrdrow v => s.h.vln != 0 && chained v.pane (rowBits v.rows 1)
  | .hcode v => s.h.vln != 0 && chained (s.h.loops.hPane v) (codeRows (s.h.hr v.hHS) s.h.vln)
  | .pfree v => (paneRange v).all s.owns && s.h.mq.any (fun u => (paneRange v).contains u.pane)
  | .hfence _ => !s.h.migr.isEmpty
  | _ => false

/-! ### Migration (R261) -/

/-- Re-insert ids into the new half. One already present in its new line is not put there again (DEDUCED from R259, log 34: R258's insert
has no such test of its own). -/
def Table.reinsert (t : Table) (s : State) : List Nat → Except HFail State
  | [] => .ok s
  | id :: l => match t.newCode s id with
    | .error e => .error e
    | .ok n => match t.insert s (t.bucket s (1 - t.phase s) (n % t.buckets s)) id with
      | .error e => .error e
      | .ok (s1, r) =>
        let s2 := match r with
          | .refused => t.countRefusal s1
          | .evicted _ => t.countEviction s1
          | _ => s1
        t.reinsert s2 l

/-- The ids of a line and its chain, in slot order. -/
def Table.ids (t : Table) (s : State) (l : List (Word × Nat)) : List Nat :=
  l.flatMap (fun p => ((upTo 15).map (t.slot s p.2)).filter (· != emptySlot))

/-- End of a rehash. -/
def Table.finish (t : Table) (s : State) : State :=
  let d0 := (t.dword s 0).toNat
  let d4 := (t.dword s 4).toNat
  let s1 := s.tableWrite t.key 8 ((d0 ^^^ 0x10000) &&& (2 ^ 64 - 1 - 0x8000))
  let s2 := s1.tableWrite (t.key + 32) 8 (d4 / 2 ^ 20 % 2 ^ 20)
  t.setField s2 6 0 29 0

/-- One pass. -/
def Table.pass (t : Table) (s : State) : Except HFail State :=
  let b := t.cursor s
  let moved : Except HFail State :=
    if t.buckets s ≤ b then .ok s
    else
      let va := t.bucket s (t.phase s) b
      match t.chainFrom s (t.chSize s) va with
      | .error e => .error e
      | .ok l => match t.reinsert s (t.ids s l) with
        | .error e => .error e
        | .ok s1 =>
          let k := match l with | p :: _ => p.2 | [] => 0
          .ok (t.setField (s1.emptyLine k) 6 0 29 (b + 1))
  match moved with
  | .error e => .error e
  | .ok s1 => .ok (if t.cursor s1 = t.buckets s1 then t.finish s1 else s1)

/-- The addresses that a pass from one state to another translates; one that fails changes nothing (R245, R261). -/
def Table.passed (t : Table) (s s1 : State) : List Word :=
  let b := t.cursor s
  let old := t.bucket s (t.phase s) b
  let ids := fun (l : List (Word × Nat)) => (t.ids s l).flatMap (fun id => t.codeAddress s id :: (match t.newCode s id with
    | .error _ => []
    | .ok n => t.chainSeen s (t.chSize s) (t.bucket s (1 - t.phase s) (n % t.buckets s))))
  if t.buckets s ≤ b then []
  else t.chainSeen s (t.chSize s) old ++ (match t.chainFrom s (t.chSize s) old with
    | .error _ => []
    | .ok l => ids l ++ t.opened s s1)

/-- What a pass comes to: a failure, a migration that has ended, or the state after it; with the addresses that it translates beside its
descriptor's. -/
def State.passOf (s : State) (m : Migration) (abort : Bool) : Except HFail (Option State) × List Word :=
  match openTable s m.desc .atomic m.ctxid m.sup readHome (fun t atom => t.good s atom none) with
  | .error e => (.error e, [])
  | .ok t =>
    if !t.rehash s then (.ok none, [])
    else if abort then (.error { cause := .data, abort := true, addr := t.bucket s (t.phase s) (t.cursor s) }, [])
    else match t.pass s with
      | .error e => (.error e, t.passed s s)
      | .ok s1 => (.ok (some s1), t.passed s s1)

/-- Must the next pass of a migration wait for a running stream that the hart started before the HREHASH, whose ranges meet the lines that the pass
reads and writes (R269; log 57)? -/
def State.passWaits (s : State) (m : Migration) (lines : List Word) : Bool :=
  s.h.streams.any (fun o => match o with
    | none => false
    | some q => q.running && decide (q.age < m.age)
      && lines.any (fun a => inRanges (q.reads ++ q.writes) (a.toNat / 64 * 64) 64))

/-- The lines that the next pass of a migration translates, its descriptor's first. -/
def State.passLines (s : State) (m : Migration) : List Word :=
  let s0 := s.atHome.mapH (fun h => { h with closed := [], ssb := [] })
  m.desc :: (s0.passOf m false).2

/-- Can the next pass of a migration of the hart be made? -/
def State.passReady (s : State) : Bool := match s.h.migr with | m :: _ => !s.passWaits m (s.passLines m) | [] => false

/-- HREHASH_PASS (R261) on the hart in hand: one pass of its oldest migration, once no earlier stream holds it up; `abort` says that it meets an abort
completion. Each pass checks the whole descriptor as R254 does, and a bad one stops the migration (DESIGN CHOICE, log 34: R261 names the
lines, the new codes and the chains). -/
def State.migrate (s : State) (abort : Bool) : State :=
  match s.h.migr with
  | [] => s
  | m :: l =>
    let ended := fun (s : State) => s.mapH (fun h => { h with migr := l })
    let s0 := s.atHome.mapH (fun h => { h with closed := [], ssb := [] })
    let back := fun (t : State) => t.mapH (fun h => { h with closed := s.h.closed, ssb := s.h.ssb })
    if s.passWaits m (s.passLines m) then s else
    let r := s0.passOf m abort
    let seen := fun (s : State) => s.enteredFor m.ctxid (m.desc :: r.2)
    match r.1 with
    | .error e =>
      (ended (seen (s.logError (dieOfHart s.h.id) .migration e.addr.toNat s.h.id m.ctxid.toNat))).mapH (fun h => { h with heldFail := h.heldFail ++
        [{ desc := m.desc, cause := e.cause, address := e.addr }] })
    | .ok none => ended (seen s)
    | .ok (some s1) =>
      let s2 := seen (back (s1.h.closed.foldl State.strikeStore s0))
      if m.passes ≤ 1 then ended s2 else s2.mapH (fun h => { h with migr := { m with passes := m.passes - 1 } :: l })

def execHrehashPass (hart : Nat) (abort : Bool) (s : State) : Out := .next (s.withHart hart (·.migrate abort))

end Sys2Proof.Machine
end

