-- ==== Sys2Proof/Machine/Convoy.lean ====
section
/-!
DEFINITION. Sys2Proof/Machine/Convoy.lean: pushing a convoy (R15, R20, R29, R333 of spec/02_encoding.md; R149, R151), its issue
(R68, R187, R196, R204, R212, R219, R222, R299) and its retirement (R27, R296, R298), and the vector instructions.
-/
namespace Sys2Proof.Machine

/-- What a vector instruction does. -/
def opOf : Instr → Option (VOp × VArgs)
  | .vadd v => some (vaddOp, v)
  | .vsub v => some (vsubOp, v)
  | .vrsub v => some (vrsubOp, v)
  | .vand v => some (vandOp, v)
  | .vor v => some (vorOp, v)
  | .vxor v => some (vxorOp, v)
  | .vsll v => some (vsllOp, v)
  | .vsrl v => some (vsrlOp, v)
  | .vsra v => some (vsraOp, v)
  | .vmin v => some (vminOp, v)
  | .vmax v => some (vmaxOp, v)
  | .vminu v => some (vminuOp, v)
  | .vmaxu v => some (vmaxuOp, v)
  | .vadds v => some (vaddsOp, v)
  | .vsubs v => some (vsubsOp, v)
  | .vaddus v => some (vaddusOp, v)
  | .vmul v => some (vmulOp, v)
  | .vmulh v => some (vmulhOp, v)
  | .vmulhu v => some (vmulhuOp, v)
  | .vmacc v => some (vmaccOp, v)
  | .vwiden v => some (vwidenOp, v)
  | .vnarrow v => some (vnarrowOp, v)
  | .vmerge v => some (vmergeOp, v)
  | .vmv v => some (vmvOp, v)
  | .vcmpeq v => some (vcmpeqOp, v)
  | .vcmpne v => some (vcmpneOp, v)
  | .vcmplt v => some (vcmpltOp, v)
  | .vcmpltu v => some (vcmpltuOp, v)
  | .vcmple v => some (vcmpleOp, v)
  | .vcmpleu v => some (vcmpleuOp, v)
  | .vcmpgt v => some (vcmpgtOp, v)
  | .vfadd v => some (vfaddOp, v)
  | .vfsub v => some (vfsubOp, v)
  | .vfmul v => some (vfmulOp, v)
  | .vfdiv v => some (vfdivOp, v)
  | .vfsqrt v => some (vfsqrtOp, v)
  | .vfma v => some (vfmaOp, v)
  | .vfms v => some (vfmsOp, v)
  | .vfnma v => some (vfnmaOp, v)
  | .vfmin v => some (vfminOp, v)
  | .vfmax v => some (vfmaxOp, v)
  | .vfsgn v => some (vfsgnOp, v)
  | .vfcmpeq v => some (vfcmpeqOp, v)
  | .vfcmplt v => some (vfcmpltOp, v)
  | .vfcmple v => some (vfcmpleOp, v)
  | .vfclass v => some (vfclassOp, v)
  | .vfcvt v => some (vfcvtOp, v)
  | .vbscale v => some (vbscaleOp, v)
  | .vbquant v => some (vbquantOp, v)
  | .vbdeq v => some (vbdeqOp, v)
  | .vid v => some (vidOp, v)
  | .vslup v => some (vslupOp, v)
  | .vsldn v => some (vsldnOp, v)
  | .vperm v => some (vpermOp, v)
  | .vcompress v => some (vcompressOp, v)
  | .vexpand v => some (vexpandOp, v)
  | .vredsum v => some (vredsumOp, v)
  | .vredmin v => some (vredminOp, v)
  | .vredmax v => some (vredmaxOp, v)
  | .vfredo v => some (vfredoOp, v)
  | .vfredt v => some (vfredtOp, v)
  | .vfredmin v => some (vfredminOp, v)
  | .vfredmax v => some (vfredmaxOp, v)
  | .vmvxs v => some (vmvxsOp, v)
  | .vmvsx v => some (vmvsxOp, v)
  | .viota v => some (viotaOp, v)
  | .kand v => some (kandOp, v)
  | .kor v => some (korOp, v)
  | .kxor v => some (kxorOp, v)
  | .kandn v => some (kandnOp, v)
  | .knot v => some (knotOp, v)
  | .kpopc v => some (kpopcOp, v)
  | .kfirst v => some (kfirstOp, v)
  | .ksetn v => some (ksetnOp, v)
  | .kmv v => some (kmvOp, v)
  | .vld v => some (vldOp, v)
  | .vlds v => some (vldsOp, v)
  | .vldx v => some (vldxOp, v)
  | .vst v => some (vstOp, v)
  | .vsts v => some (vstsOp, v)
  | .vstx v => some (vstxOp, v)
  | .vsxadd v => some (vsxaddOp, v)
  | .vamoadd v => some (vamoaddOp, v)
  | .vamomin v => some (vamominOp, v)
  | .vamomax v => some (vamomaxOp, v)
  | .vldk v => some (vldkOp, v)
  | .vstk v => some (vstkOp, v)
  | .mma v => some (mmaOp, v)
  | .mconv v => some (mconvOp, v)
  | .mzero v => some (mzeroOp, v)
  | .mrdrow v => some (mrdrowOp, v)
  | .mwrrow v => some (mwrrowOp, v)
  | .vpconv v => some (vpconvOp, v)
  | .vpconva v => some (vpconvaOp, v)
  | .vpack v => some (vpackOp, v)
  | .vfext v => some (vfextOp, v)
  | .flset v => some (flsetOp, v)
  | .flget v => some (flgetOp, v)
  | .pclaim v => some (pclaimOp, v)
  | .pfree v => some (pfreeOp, v)
  | .hfset v => some (hfsetOp, v)
  | .hcode v => some (hcodeOp, v)
  | .hprobe v => some (hprobeOp, v)
  | .hins v => some (hinsOp, v)
  | .hdel v => some (hdelOp, v)
  | .hrehash v => some (hrehashOp, v)
  | .hfence v => some (hfenceOp, v)
  | .hstat v => some (hstatOp, v)
  | _ => none

/-! ### Pushing a convoy -/

/-- Address of the lower half of vector word `i` of the convoy at `pc` (R15). -/
def vectorWordAt (pc : Word) (i : Nat) : Word := pc + BitVec.ofNat 64 (4 + 8 * i)

/-- The checks of Table 2.6, the fetches apart: the instructions of the convoy at `pc`, or a cause with EVAL. -/
def checkConvoy (pc : Word) (h : ConvoyHeader) (ws : List Word) : Except (Cause × Word) (List Instr) :=
  if pc.toNat % 8 ≠ 4 then .error (.align, pc)
  else if !h.encOk then .error (.enc, pc)
  else if !h.illOk then .error (.ill, pc)
  else match firstEnc 0 h.units ws with
    | some i => .error (.enc, vectorWordAt pc i)
    | none => match vecInstrs 0 h.units ws with
      | .error i => .error (.ill, vectorWordAt pc i)
      | .ok is => .ok is

/-- Step 8 of R333: does what stands at `pc` and ends at `next` pass the LEND of a level it starts in (R149)? -/
def Loops.overruns (l : Loops) (pc next : Word) : Bool := l.here.any (fun p => p.2.inBody pc && p.2.lend.toNat < next.toNat)

/-- Step 9 of R333: the level that gates a convoy of stage `k` (R151). -/
def Loops.gate (l : Loops) (k : Nat) : Option Level :=
  match l.here.getLast? with
  | some p => if k < p.2.stages then some p.2 else none
  | none => none

/-- A convoy waiting for its issue. -/
def newConvoy (pc next : Word) (is : List Instr) (age : Nat) : Convoy :=
  { pc := pc, next := next, words := is, age := age, issued := false, grant := 0, clusters := [], tiles := [], trim := none,
    refused := none, claimed := [], answer := 0, probes := [], loaded := none, bytes := 0, entries := 0 }

/-- Steps 8 to 10 of R333; then the convoy joins the queue, or, gated off, retires with no effect (R151). The PC stays at the
header until the convoy retires (log 10). -/
def State.pushConvoy (s : State) (stage : Option Nat) (is : List Instr) (next : Word) : Out :=
  let l := s.h.loops
  if l.overruns s.h.pc next then s.trapped .lesc 0
  else match (match stage with
      | none => some true
      | some k => (l.gate k).map (fun (v : Level) => bitAt v.sp.toNat k)) with
    | none => s.trapped .lnest 0
    | some run =>
      if s.h.vstate = 0 then s.trapped .first 0
      else if run then .next (s.mapH (fun h => { h with convoys := h.convoys ++ [newConvoy h.pc next is s.dev.steps] }))
      else .next (s.advanceTo next)

/-- CONVOY (R29). -/
def execConvoy (header : ConvoyHeader) (words : List Word) (s : State) : Out :=
  match checkConvoy s.h.pc header words with
  | .error (c, v) => s.trapped c v
  | .ok is => s.pushConvoy (if header.stg then some header.stage.toNat else none) is
      (s.h.pc + BitVec.ofNat 64 (4 + 8 * header.count))

/-! ### Issue -/

/-- Step 11 of R333 on the words of a convoy: the first word whose definition refuses it with ILL. -/
def Convoy.illFrom (cv : Convoy) (s : State) : Nat → List Instr → Option TrapInfo
  | _, [] => none
  | i, w :: ws =>
    match opOf w with
    | some (op, v) =>
      if op.ill v s then
        some { cause := .ill, bp := 0, epc := cv.pc, eval := vectorWordAt cv.pc i, eelem := 0,
               elane := if op.named then laneOf s.h.grant s.h.sew 0 else 0 }
      else cv.illFrom s (i + 1) ws
    | none => cv.illFrom s (i + 1) ws

/-- Step 12 of R333: the lowest cluster of GRANT that is not usable (R299). -/
def State.lostCluster (s : State) : Option Nat := s.h.usedClusters.find? (fun c => !s.core.usable c)

/-- Core-wide units that a convoy names: VLSU, MTX, HASH (R68). -/
def coreWide (is : List Instr) : List Nat := (is.filterMap (fun i => (vecCode i).map (·.1))).filter (fun u => u == 2 || 4 ≤ u)

/-- Core-wide units that the issued convoys of another hart keep busy; one that only holds its retirement counts as free (R198), and so does
that of a PCLAIM, whose claim is made at its issue (R187, R203). -/
def State.unitsBusy (s : State) (id : Nat) : List Nat :=
  ((s.hartOf id).convoys.filter (·.issued)).flatMap (fun cv =>
    coreWide (cv.words.filter (fun i => match i with
      | .mrdrow _ => !holdsRetirement i (s.focus id)
      | .hcode _ => !holdsRetirement i (s.focus id)
      | .pclaim _ => false
      | _ => true)))

/-- Bytes of the operand buffer in use on the core (R196), of 131,072. -/
def State.bufferUsed (s : State) : Nat :=
  ((s.hartsOfCore s.core.id).map (fun h => (h.mq.map (·.bytes)).sum + (h.convoys.map (·.bytes)).sum)).sum

/-- Add what the issue of a word finds to what it found for the words before it. -/
def Gate.and (g h : Gate) : Gate :=
  { tiles := g.tiles ++ h.tiles, trim := g.trim.orElse (fun _ => h.trim), refused := g.refused.orElse (fun _ => h.refused),
    vas := g.vas ++ h.vas, held := g.held || h.held, late := g.late || h.late }

/-- Does what a word checks as its convoy issues come from a register or mask that an earlier word may still have to give: the indexes or
the mask of a memory instruction, the codes of a probe, insert or delete? -/
def asksRegisters (i : Instr) : Bool :=
  match memForm i with
  | some f => f.addr == .indexed || f.v.km != 15
  | none => match i with
    | .hprobe _ => true
    | .hins _ => true
    | .hdel _ => true
    | _ => false

/-- Does a word give registers that it reads from a table as the convoy runs (R260)? -/
def givesFromTable : Instr → Bool
  | .hprobe _ => true
  | .hins _ => true
  | .hdel _ => true
  | .hstat _ => true
  | _ => false

/-- What the issue finds for one word, after `g` for those before it; none while it has to wait (R209, R212, R219, R222, R254, R261): also
for a word before it that holds the retirement, whose result it checks. What a table gives is known only once the table is read: a word that
checks it is checked then (R212, R260). -/
def Ctx.gateOf (c : Ctx) (i : Instr) (g : Gate) : Option Gate :=
  if hashBusy i c.s || (g.held && c.vl != 0 && asksRegisters i) then none
  else match memForm i with
    | some f => if g.late && asksRegisters i then some {} else if c.memoryWaits f then none else c.gate f
    | none =>
      if c.hashWaits i then none
      else some { vas := c.hashAddresses i, refused := (c.hashCheck i).map (fun x => (c.pos, x)), held := holdsRetirement i c.s,
                  late := givesFromTable i }

/-- What the issue finds for the words of a convoy, each seeing what the words before it give (R26). The first word that is refused is the
last, and its refusal stands (log 58); but one of a table, and one that follows a word that holds the retirement or reads a table, meet
theirs at the retirement. -/
def Ctx.gates : List Instr → Ctx → Gate → Option Gate
  | [], _, g => some g
  | i :: is, c, g =>
    match c.gateOf i g with
    | none => none
    | some g1 =>
      let g2 := g.and g1
      if g2.refused.isSome then some g2
      else match opOf i with
        | none => Ctx.gates is { c with pos := c.pos + 1 } g2
        | some (op, v) => match op.run v { c with cv := { c.cv with trim := g2.trim } } with
          | .error x => if g2.held || g2.late || readsTable i then Ctx.gates is { c with pos := c.pos + 1 } g2
            else some { g2 with refused := some (c.pos, x) }
          | .ok c2 => Ctx.gates is { c2 with pos := c2.pos + 1 } g2

/-- The panes that a convoy's PCLAIM takes, and its answer (R187). -/
def State.claims (s : State) : List Instr → List Nat × Word
  | [] => ([], 0)
  | .pclaim v :: _ => s.claim v
  | _ :: is => s.claims is

/-- Is the convoy of the hart in hand ready (R68)? The convoy as its issue leaves it, and the addresses that it translates. -/
def State.ready (s : State) (cv : Convoy) : Option (Convoy × List Word) :=
  let others := (upTo 4).filter (fun i => 4 * s.core.id + i != s.h.id)
  let busy := others.flatMap (fun i => s.unitsBusy (4 * s.core.id + i))
  let bytes := (cv.words.map (fun i => operandBytes i s)).sum
  let entries := (cv.words.map (fun i => operandEntries i s)).sum
  let cv1 := { cv with grant := s.h.grant }
  if !s.grantHeld then none
  else if (coreWide cv.words).any busy.contains then none
  else if 131072 < s.bufferUsed + bytes ∨ 16 < s.h.mq.length + entries then none
  else match Ctx.gates cv.words (Ctx.start s cv1) {} with
    | none => none
    | some g =>
      let p := s.claims cv.words
      some ({ cv1 with issued := true, clusters := s.h.usedClusters, tiles := g.tiles, trim := g.trim, refused := g.refused,
                       claimed := p.1, answer := p.2, bytes := bytes, entries := entries }, g.vas)

/-- Does the convoy `a` of hart `i` go before `b` of hart `j` (R68)? The older one does; at equal age the round-robin order. -/
def goesBefore (rr : Nat) (a : Convoy) (i : Nat) (b : Convoy) (j : Nat) : Bool :=
  a.age < b.age || (a.age == b.age && (i + 4 - rr) % 4 < (j + 4 - rr) % 4)

/-- Must the convoy let a ready convoy of another hart of the core go first (R68)? -/
def State.yieldsTo (s : State) (cv : Convoy) (id : Nat) : Bool :=
  match (s.hartOf id).convoys with
  | o :: _ => !o.issued && (coreWide o.words).any (coreWide cv.words).contains
      && goesBefore s.core.rrIssue o (id % 4) cv (s.h.id % 4) && ((s.focus id).ready o).isSome
  | [] => false

/-- CONVOY_ISSUE (R68) on the hart in hand: steps 11 and 12 of R333, then the issue once the convoy is ready. -/
def State.issueConvoy (s : State) : State :=
  match s.h.convoys with
  | [] => s
  | cv :: rest =>
    if cv.issued then s
    else match cv.illFrom s 0 cv.words with
      | some t => s.raise t
      | none => match s.lostCluster with
        | some c =>
          if s.h.unsealed then s.rewind false
          else s.raise { cause := .lane, bp := 0, epc := cv.pc, eval := 0, eelem := 0, elane := 4 * c }
        | none =>
          if (upTo 4).any (fun i => 4 * s.core.id + i != s.h.id && s.yieldsTo cv (4 * s.core.id + i)) then s
          else match s.ready cv with
            | none => s
            | some (cv', vas) =>
              (((s.takePanes cv'.claimed).enteredAll vas).mapH (fun h => { h with convoys := cv' :: rest })
                |>.mapCore (fun k => { k with rrIssue := (s.h.id % 4 + 1) % 4 })).tablesHome cv.words

def execConvoyIssue (hart : Nat) (s : State) : Out := .next (s.withHart hart State.issueConvoy)

/-! ### Retirement -/

/-- A word of a convoy in its slot; what its issue found to stop it stands (R212, R254; log 58). -/
def Ctx.runSlot (c : Ctx) (op : VOp) (v : VArgs) : Slot :=
  match c.cv.refused with
  | some (n, x) => if n = c.pos then .error x else op.run v c
  | none => op.run v c

/-- The slots of a convoy in order (R26). -/
def runSlots : List Instr → Ctx → Slot
  | [], c => .ok c
  | i :: is, c => match opOf i with
    | none => runSlots is { c with pos := c.pos + 1 }
    | some (op, v) => match c.runSlot op v with
      | .error x => .error x
      | .ok c1 => runSlots is { c1 with pos := c1.pos + 1 }

/-- The addresses of device memory that a memory word accesses. -/
def Ctx.memoryAddresses (c : Ctx) (i : Instr) : List Word :=
  match memForm i with
  | some f => if c.s.h.space = 0 then (c.items f.addr f.v).map (c.address f.addr f.v) else []
  | none => []

/-- The addresses that words of a convoy translate as they run, up to the one that stops it (R245): by `f` those of one word. -/
def slotAddresses (f : Ctx → Instr → List Word) : List Instr → Ctx → List Word
  | [], _ => []
  | i :: is, c => f c i ++ (match opOf i with
    | none => slotAddresses f is { c with pos := c.pos + 1 }
    | some (op, v) => match c.runSlot op v with
      | .error _ => []
      | .ok c1 => slotAddresses f is { c1 with pos := c1.pos + 1 })

/-- Those of its table words, and of its memory words. -/
def tableAddresses : List Instr → Ctx → List Word := slotAddresses Ctx.hashAddresses
def memoryAddresses : List Instr → Ctx → List Word := slotAddresses Ctx.memoryAddresses

/-- What the table words of a convoy leave before they run: what stands before their reads, and the entries of their translations. -/
def State.tablesRead (s : State) (cv : Convoy) : State :=
  if cv.words.any readsTable then s.atHome.enteredAll (tableAddresses cv.words (Ctx.start s.atHome cv)) else s

/-- Does a convoy hold a memory word that checks what an earlier word reads from a table? -/
def lateWord : List Instr → Bool
  | [] => false
  | i :: is => (givesFromTable i && is.any (fun j => (memForm j).isSome && asksRegisters j)) || lateWord is

/-- What the words that check what a table gives find as the convoy comes to run: their tiles, and the addresses that they translate; none while
one has to wait (R209, R212, R222, R269). -/
def Ctx.lateGates : List Instr → Ctx → Bool → Option Gate
  | [], _, _ => some {}
  | i :: is, c, late =>
    let found := if late && (memForm i).isSome && asksRegisters i then ({ c with cv := { c.cv with issued := false } } : Ctx).gateOf i {}
      else some {}
    match found with
    | none => none
    | some g => match opOf i with
      | none => (Ctx.lateGates is { c with pos := c.pos + 1 } late).map g.and
      | some (op, v) => match ({ c with cv := { c.cv with tiles := c.cv.tiles ++ g.tiles } } : Ctx).runSlot op v with
        | .error _ => some g
        | .ok c1 => (Ctx.lateGates is { c1 with pos := c1.pos + 1 } (late || givesFromTable i)).map g.and

/-- The issued convoy as it comes to run, with the tiles that its late words name, and the addresses that these translate; none while one of them
has to wait. -/
def State.settled (s : State) (cv : Convoy) : Option (Convoy × List Word) :=
  if lateWord cv.words then
    (Ctx.lateGates cv.words (Ctx.start s cv) false).map (fun g => ({ cv with tiles := cv.tiles ++ g.tiles }, g.vas))
  else some (cv, [])

/-- The convoy that runs now. -/
def State.running (s : State) (cv : Convoy) : Convoy := match s.settled cv with | some p => p.1 | none => cv

/-- Must an issued convoy wait to retire: for what holds its retirement (R188, R198, R204, R257, R262), or for a late word? -/
def State.mustWait (s : State) (cv : Convoy) : Bool :=
  cv.words.any (fun i => holdsRetirement i s) || (lateWord cv.words && ((s.tablesRead cv).settled cv).isNone)

/-- The word that stopped the slots: what it was and the context it ran in. -/
def stoppedAt : List Instr → Ctx → Option (Instr × Ctx)
  | [], _ => none
  | i :: is, c => match opOf i with
    | none => stoppedAt is { c with pos := c.pos + 1 }
    | some (op, v) => match c.runSlot op v with
      | .error _ => some (i, c)
      | .ok c1 => stoppedAt is { c1 with pos := c1.pos + 1 }

/-- Does a word perform its elements or steps at memory as its convoy retires (R217, R249, R260)? -/
def actsAtOnce : Instr → Bool
  | .vsxadd _ => true
  | .vamoadd _ => true
  | .vamomin _ => true
  | .vamomax _ => true
  | .hins _ => true
  | .hdel _ => true
  | _ => false

/-- Does a word of a convoy seal an open strip before it goes on (R159)? -/
def sealsStrip (i : Instr) : Bool := actsAtOnce i || (match i with | .hrehash _ => true | _ => false)

/-- Has the instruction, at an abort completion, performed the elements or steps before the failing one (Table 19.7)? Those of a word that acts at
once, when every active element has passed its checks (R214, R259). -/
def performsBelow (i : Instr) (c : Ctx) : Bool :=
  actsAtOnce i && (match opOf i with
    | none => false
    | some (op, v) => match op.run v c with
      | .error (.abort _) => true
      | .error _ => false
      | .ok _ => true)

/-- The elements below `e` of a word that an abort completion cut short remain performed (Table 19.7); nothing else of the
convoy does. -/
def State.partWord (s : State) (i : Instr) (c : Ctx) (e : Nat) : State :=
  match opOf i with
  | none => s
  | some (op, v) => match op.run v { c with t := s, limit := some e } with
    | .ok c1 => c1.t
    | .error _ => s

/-- The die whose controller finds the error that a word of a convoy of the hart in hand meets at `a`: the hart's own for a vector access
in a local space, and where no page is mapped at `a`, which is then none of memory. -/
def State.wordFinder (s : State) (i : Instr) (a : Word) : Nat :=
  let own := dieOfHart s.h.id
  if (memForm i).isSome && s.h.space != 0 then own
  else match s.leafOf s.h.ctxid.toNat a with
    | .error .page => own
    | _ => s.finder s.h.ctxid own a

/-- Discard the convoy and resolve an abort completion (R162, R296): when the word that met it performs its elements at
retirement, those before the failing one remain performed. A VAMO, VSXADD, HINS, HDEL or HREHASH that meets it has sealed the strip first (R159;
log 47). -/
def State.abortConvoy (s : State) (i : Instr) (c : Ctx) (t : TrapInfo) : State :=
  let s0 := if sealsStrip i then s.seal else s
  let s1 := if performsBelow i c then s0.partWord i c t.eelem else s0
  s1.discardQueues.abortedOn (s.wordFinder i t.eval) t

/-- The X registers that a convoy writes reach the pipeline that runs ahead of it (R94). -/
def Hart.showX (h : Hart) (ws : List (XReg × Word)) : Hart :=
  { h with front := h.front.map (fun f => { f with x := ws.foldl (fun x p => if p.1 = 0 then x else x.set p.1.toNat p.2) f.x }) }

/-- The convoy at the head of the queue retires (R27): everything it did commits, and the hart goes on behind it, or at the
back edge it reaches (R150). -/
def Ctx.retire (c : Ctx) : State :=
  (c.commit.mapH (fun h => { h.showX c.xw with convoys := h.convoys.drop 1 })).advanceTo c.cv.next

/-- What keeps a convoy from retiring is taken; its words have translated as far as they ran. -/
def State.stopConvoy (s : State) (cv : Convoy) (x : Stop) : State :=
  let u := s.enteredAll (memoryAddresses cv.words (Ctx.start s cv))
  match x with
  | .abort t => (match stoppedAt cv.words (Ctx.start s cv) with
    | some (i, c) => u.abortConvoy i c t
    | none => u.discardQueues.aborted t)
  | x => u.discardQueues.stopAt x

/-- Have the 2,000 counts of TIME passed in which an issued convoy may retire (R292)? They do not bind one of a strip before that of a farm claim
already made. -/
def Hart.overdue (time : Nat) (h : Hart) : Bool :=
  match h.taking with | some t => decide (t + 2000 ≤ time) && !h.holding | none => false

/-- CONVOY_RETIRE (R27) on the hart in hand. Past the bound of a request for a trap the convoy is discarded (R292); that of a hart that has
been stopped is discarded, too, when it is refused (R290, R322). -/
def State.retireConvoy (s : State) : State :=
  match s.h.convoys with
  | [] => s
  | cv :: _ =>
    if !cv.issued then s
    else if s.h.overdue s.dev.time then s.discardQueues
    else if cv.words.any (fun i => holdsRetirement i s) then s
    else match (s.tablesRead cv).settled cv with
      | none => s
      | some (cv1, vas) =>
        let t := (s.tablesRead cv).enteredAll vas
        match runSlots cv1.words (Ctx.start t cv1) with
        | .ok c => c.retire
        | .error x => if s.h.stopped then s.discardQueues else t.stopConvoy cv1 x

def execConvoyRetire (hart : Nat) (s : State) : Out := .next (s.withHart hart State.retireConvoy)

/-- The word in slot `slot` of a convoy, with its operation and the context that it runs in. -/
def convoySlot : Nat → List Instr → Ctx → Option (Instr × VOp × VArgs × Ctx)
  | _, [], _ => none
  | n, i :: is, c => match opOf i with
    | none => match n with
      | 0 => none
      | n + 1 => convoySlot n is { c with pos := c.pos + 1 }
    | some (op, v) => match n with
      | 0 => some (i, op, v, c)
      | n + 1 => match c.runSlot op v with
        | .error _ => none
        | .ok c1 => convoySlot n is { c1 with pos := c1.pos + 1 }

/-- Does a word give its result in X[rd] (R132)? -/
def givesX : Instr → Bool
  | .vmvxs _ => true
  | .kpopc _ => true
  | .kfirst _ => true
  | _ => false

/-- Does a word give its result in element 0 alone (R136, R140)? -/
def givesFirst : Instr → Bool
  | .vmvsx _ => true
  | .vredsum _ => true
  | .vredmin _ => true
  | .vredmax _ => true
  | .vfredo _ => true
  | .vfredt _ => true
  | .vfredmin _ => true
  | .vfredmax _ => true
  | _ => false

/-- Does a word give every element below VL, whatever its mask (R117, R134, R135)? -/
def givesAll : Instr → Bool
  | .vmerge _ => true
  | .kand _ => true
  | .kor _ => true
  | .kxor _ => true
  | .kandn _ => true
  | .knot _ => true
  | .kmv _ => true
  | .ksetn _ => true
  | _ => false

/-- Does a word that accesses no memory write element `e` of its result, that of an X register counted as element 0 (R298)? -/
def Ctx.gives (c : Ctx) (i : Instr) (v : VArgs) (e : Nat) : Bool :=
  if givesX i || givesFirst i then e == 0
  else if givesAll i then e < c.vl
  else match i with
    | .vcompress _ => e < (c.actives v).length
    | .vbscale _ => e < c.blocks
    | .vslup _ => e < c.vl && c.active v e && c.offset v ≤ e
    | _ => e < c.vl && c.active v e

/-- Does a memory word write a register? -/
def loadsRegister : Instr → Bool
  | .vld _ => true
  | .vlds _ => true
  | .vldx _ => true
  | .vldk _ => true
  | .vamoadd _ => true
  | .vamomin _ => true
  | .vamomax _ => true
  | _ => false

/-- The memory word of a mismatch in an address or a stored datum, all that a word without a result has (R298). -/
def accessOf (i : Instr) (operand : Bool) : Option MemForm := if operand || !loadsRegister i then memForm i else none

/-- Is the element one of the result of a load of its vector register, as far as a trimmed load goes (R219), or a bit of that of a mask load
(R129)? -/
def Ctx.loadGives (c : Ctx) (f : MemForm) (element : Nat) : Bool :=
  if f.addr = .bytes then element < c.vl else (c.items f.addr f.v).contains element && c.covers element

/-- Does a primary lane process an element of the word: a unit that protected mode mirrors, and an element that it accesses, or writes in a
slot that is not refused (R298)? -/
def Ctx.mirrors (c : Ctx) (i : Instr) (op : VOp) (v : VArgs) (element : Nat) (operand : Bool) : Bool :=
  (match vecCode i with | some (u, _) => u < 4 | none => false) && c.vl != 0
    && (match accessOf i operand with
      | some f => (c.items f.addr f.v).contains element
      | none => (match c.runSlot op v with | .ok _ => true | .error _ => false)
        && (match memForm i with
          | some f => c.loadGives f element
          | none => c.gives i v element))

/-- What a mismatch of an element leaves: EVAL is A(e) of a memory word's address or datum; else 0 (R298). -/
def Ctx.mismatchInfo (c : Ctx) (i : Instr) (element : Nat) (operand : Bool) : TrapInfo :=
  match accessOf i operand with
  | some f => c.itemInfo f.addr .data (c.address f.addr f.v element) element
  | none => c.trapInfo .data 0 element (c.lane element)

/-- A protected-mode mismatch of an element of a slot, found at the retirement of the hart's convoy (R298, R299), in an address or stored
datum when `operand` says so, else in a result: the convoy is discarded, the mismatch counted for its primary lane, a second one on the lane retires
the cluster pair, the error log records it, and the outcome is that of Table 8.7. A VAMO whose old values differ has then performed none of its
atomics and has not sealed the strip (DESIGN CHOICE, log 73: R298 finds them at write-back, after R249 has performed the atomics). -/
def State.mismatchAt (s : State) (slot element : Nat) (operand : Bool) : State :=
  match s.h.convoys with
  | [] => s
  | cv :: _ =>
    if !cv.issued || !s.h.pmodeNow then s
    else match convoySlot slot cv.words (Ctx.start s (s.running cv)) with
      | none => s
      | some (i, op, v, c) =>
        if !c.mirrors i op v element operand then s
        else
          let t := c.mismatchInfo i element operand
          let lane := t.elane
          let n := s.core.mismatch.getD lane 0 + 1
          let pair : BitVec 8 := BitVec.ofNat 8 (2 ^ (lane / 4) + 2 ^ (lane / 4 + 4))
          let s1 := s.discardQueues.mapCore (fun k => { k with mismatch := k.mismatch.set lane n,
                                                               lanedis := if 2 ≤ n then k.lanedis ||| pair else k.lanedis })
          (s1.logHart .mismatch lane).requestRewind t

/-- Is a word a load of the vector agent, whose result a read step may ask for (R260)? -/
def loadsOnly : Instr → Option VArgs
  | .vld v => some v
  | .vlds v => some v
  | .vldx v => some v
  | .vldk v => some v
  | _ => none

/-- Is the result of a word known only as its convoy retires: that of an atomic, and of one that holds the retirement? -/
def givesLast (i : Instr) (s : State) : Bool :=
  holdsRetirement i s || (match memForm i with | some f => f.write && loadsRegister i | none => false)

/-- The bits that a load has put into its register. -/
def Ctx.loadedBits (c : Ctx) (i : Instr) (v : VArgs) : Nat :=
  match i with
  | .vldk _ => (c.k.getD v.vd.toNat 0).toNat
  | _ => (c.reg v.vd.toNat).bits.toNat

/-- The reads of the load before the HPROBE of an issued convoy are made, once for every read step of it and for its retirement (R260, R26): the
state after them, and what it has read. -/
def State.latched (s : State) : List Instr → Ctx → State × Option Nat
  | [], _ => (s, none)
  | .hprobe _ :: _, _ => (s, none)
  | i :: is, c => match opOf i with
    | none => s.latched is { c with pos := c.pos + 1 }
    | some (op, v) => match c.runSlot op v with
      | .error _ => (s, none)
      | .ok c1 => match loadsOnly i with
        | some _ => ((match c.cv.loaded, op.run v { c with t := s } with | none, .ok c2 => c2.t | _, _ => s), some (c1.loadedBits i v))
        | none => s.latched is { c1 with pos := c1.pos + 1 }

/-- HPROBE_READ_STEP (R260) on the hart in hand: the line of code `e` of the HPROBE in its issued convoy is read now, if no lower active code is
still to be read; with the addresses translated. Where a word before it gives its result only at the retirement, so are the codes read. -/
def Ctx.readStep : List Instr → Ctx → Nat → Option (BitVec 512 × List Word)
  | [], _, _ => none
  | .hprobe v :: _, c, e =>
    if c.vl = 0 ∨ 8 < c.vl ∨ c.nextCode v ≠ some e then none
    else match c.probeTable v with
      | .error _ => none
      | .ok t => match c.probe v t e with
        | .error _ => none
        | .ok b => some (b, c.rx v.xs :: t.reached c.s (c.elem 32 v.vs1.toNat e) (.ok (c.elem 32 v.vs2.toNat e)) (v.hop + 1))
  | i :: is, c, e =>
    if givesLast i c.s then none
    else match opOf i with
      | none => Ctx.readStep is { c with pos := c.pos + 1 } e
      | some (op, v) => match c.runSlot op v with
        | .error _ => none
        | .ok c1 => Ctx.readStep is { c1 with pos := c1.pos + 1 } e

/-- Codes are read in ascending order, each at its home. -/
def State.readStep (s : State) (code : Nat) : State :=
  match s.h.convoys with
  | [] => s
  | cv :: rest =>
    if !cv.issued then s
    else
      let t := s.atHome.latched cv.words (Ctx.start s.atHome cv)
      let cv1 := { cv with loaded := t.2 }
      match Ctx.readStep cv1.words (Ctx.start t.1 cv1) code with
      | none => s
      | some (b, vas) => (t.1.enteredAll vas).mapH (fun h => { h with convoys := { cv1 with probes := cv.probes ++ [(code, b)] } :: rest })

def execHprobeReadStep (hart code : Nat) (s : State) : Out := .next (s.withHart hart (·.readStep code))

/-! ### A vector instruction as a convoy of one -/

/-- A vector instruction stands in a convoy of its own at the PC (R20): checked, pushed, issued and retired in one step as far
as nothing makes it wait. -/
def State.runVector (s : State) (i : Instr) : Out :=
  if s.h.pc.toNat % 8 ≠ 4 then s.trapped .align s.h.pc
  else match vecFault i with
    | some true => s.trapped .enc (vectorWordAt s.h.pc 0)
    | some false => s.trapped .ill (vectorWordAt s.h.pc 0)
    | none => match s.pushConvoy none [i] (s.h.pc + 12) with
      | .next t => .next t.issueConvoy.retireConvoy
      | o => o

def execVadd (v : VArgs) (s : State) : Out := s.runVector (.vadd v)
def execVsub (v : VArgs) (s : State) : Out := s.runVector (.vsub v)
def execVrsub (v : VArgs) (s : State) : Out := s.runVector (.vrsub v)
def execVand (v : VArgs) (s : State) : Out := s.runVector (.vand v)
def execVor (v : VArgs) (s : State) : Out := s.runVector (.vor v)
def execVxor (v : VArgs) (s : State) : Out := s.runVector (.vxor v)
def execVsll (v : VArgs) (s : State) : Out := s.runVector (.vsll v)
def execVsrl (v : VArgs) (s : State) : Out := s.runVector (.vsrl v)
def execVsra (v : VArgs) (s : State) : Out := s.runVector (.vsra v)
def execVmin (v : VArgs) (s : State) : Out := s.runVector (.vmin v)
def execVmax (v : VArgs) (s : State) : Out := s.runVector (.vmax v)
def execVminu (v : VArgs) (s : State) : Out := s.runVector (.vminu v)
def execVmaxu (v : VArgs) (s : State) : Out := s.runVector (.vmaxu v)
def execVadds (v : VArgs) (s : State) : Out := s.runVector (.vadds v)
def execVsubs (v : VArgs) (s : State) : Out := s.runVector (.vsubs v)
def execVaddus (v : VArgs) (s : State) : Out := s.runVector (.vaddus v)
def execVmul (v : VArgs) (s : State) : Out := s.runVector (.vmul v)
def execVmulh (v : VArgs) (s : State) : Out := s.runVector (.vmulh v)
def execVmulhu (v : VArgs) (s : State) : Out := s.runVector (.vmulhu v)
def execVmacc (v : VArgs) (s : State) : Out := s.runVector (.vmacc v)
def execVwiden (v : VArgs) (s : State) : Out := s.runVector (.vwiden v)
def execVnarrow (v : VArgs) (s : State) : Out := s.runVector (.vnarrow v)
def execVmerge (v : VArgs) (s : State) : Out := s.runVector (.vmerge v)
def execVmv (v : VArgs) (s : State) : Out := s.runVector (.vmv v)
def execVcmpeq (v : VArgs) (s : State) : Out := s.runVector (.vcmpeq v)
def execVcmpne (v : VArgs) (s : State) : Out := s.runVector (.vcmpne v)
def execVcmplt (v : VArgs) (s : State) : Out := s.runVector (.vcmplt v)
def execVcmpltu (v : VArgs) (s : State) : Out := s.runVector (.vcmpltu v)
def execVcmple (v : VArgs) (s : State) : Out := s.runVector (.vcmple v)
def execVcmpleu (v : VArgs) (s : State) : Out := s.runVector (.vcmpleu v)
def execVcmpgt (v : VArgs) (s : State) : Out := s.runVector (.vcmpgt v)
def execVfadd (v : VArgs) (s : State) : Out := s.runVector (.vfadd v)
def execVfsub (v : VArgs) (s : State) : Out := s.runVector (.vfsub v)
def execVfmul (v : VArgs) (s : State) : Out := s.runVector (.vfmul v)
def execVfdiv (v : VArgs) (s : State) : Out := s.runVector (.vfdiv v)
def execVfsqrt (v : VArgs) (s : State) : Out := s.runVector (.vfsqrt v)
def execVfma (v : VArgs) (s : State) : Out := s.runVector (.vfma v)
def execVfms (v : VArgs) (s : State) : Out := s.runVector (.vfms v)
def execVfnma (v : VArgs) (s : State) : Out := s.runVector (.vfnma v)
def execVfmin (v : VArgs) (s : State) : Out := s.runVector (.vfmin v)
def execVfmax (v : VArgs) (s : State) : Out := s.runVector (.vfmax v)
def execVfsgn (v : VArgs) (s : State) : Out := s.runVector (.vfsgn v)
def execVfcmpeq (v : VArgs) (s : State) : Out := s.runVector (.vfcmpeq v)
def execVfcmplt (v : VArgs) (s : State) : Out := s.runVector (.vfcmplt v)
def execVfcmple (v : VArgs) (s : State) : Out := s.runVector (.vfcmple v)
def execVfclass (v : VArgs) (s : State) : Out := s.runVector (.vfclass v)
def execVfcvt (v : VArgs) (s : State) : Out := s.runVector (.vfcvt v)
def execVbscale (v : VArgs) (s : State) : Out := s.runVector (.vbscale v)
def execVbquant (v : VArgs) (s : State) : Out := s.runVector (.vbquant v)
def execVbdeq (v : VArgs) (s : State) : Out := s.runVector (.vbdeq v)
def execVid (v : VArgs) (s : State) : Out := s.runVector (.vid v)
def execVslup (v : VArgs) (s : State) : Out := s.runVector (.vslup v)
def execVsldn (v : VArgs) (s : State) : Out := s.runVector (.vsldn v)
def execVperm (v : VArgs) (s : State) : Out := s.runVector (.vperm v)
def execVcompress (v : VArgs) (s : State) : Out := s.runVector (.vcompress v)
def execVexpand (v : VArgs) (s : State) : Out := s.runVector (.vexpand v)
def execVredsum (v : VArgs) (s : State) : Out := s.runVector (.vredsum v)
def execVredmin (v : VArgs) (s : State) : Out := s.runVector (.vredmin v)
def execVredmax (v : VArgs) (s : State) : Out := s.runVector (.vredmax v)
def execVfredo (v : VArgs) (s : State) : Out := s.runVector (.vfredo v)
def execVfredt (v : VArgs) (s : State) : Out := s.runVector (.vfredt v)
def execVfredmin (v : VArgs) (s : State) : Out := s.runVector (.vfredmin v)
def execVfredmax (v : VArgs) (s : State) : Out := s.runVector (.vfredmax v)
def execVmvxs (v : VArgs) (s : State) : Out := s.runVector (.vmvxs v)
def execVmvsx (v : VArgs) (s : State) : Out := s.runVector (.vmvsx v)
def execViota (v : VArgs) (s : State) : Out := s.runVector (.viota v)
def execKand (v : VArgs) (s : State) : Out := s.runVector (.kand v)
def execKor (v : VArgs) (s : State) : Out := s.runVector (.kor v)
def execKxor (v : VArgs) (s : State) : Out := s.runVector (.kxor v)
def execKandn (v : VArgs) (s : State) : Out := s.runVector (.kandn v)
def execKnot (v : VArgs) (s : State) : Out := s.runVector (.knot v)
def execKpopc (v : VArgs) (s : State) : Out := s.runVector (.kpopc v)
def execKfirst (v : VArgs) (s : State) : Out := s.runVector (.kfirst v)
def execKsetn (v : VArgs) (s : State) : Out := s.runVector (.ksetn v)
def execKmv (v : VArgs) (s : State) : Out := s.runVector (.kmv v)
def execVld (v : VArgs) (s : State) : Out := s.runVector (.vld v)
def execVlds (v : VArgs) (s : State) : Out := s.runVector (.vlds v)
def execVldx (v : VArgs) (s : State) : Out := s.runVector (.vldx v)
def execVst (v : VArgs) (s : State) : Out := s.runVector (.vst v)
def execVsts (v : VArgs) (s : State) : Out := s.runVector (.vsts v)
def execVstx (v : VArgs) (s : State) : Out := s.runVector (.vstx v)
def execVsxadd (v : VArgs) (s : State) : Out := s.runVector (.vsxadd v)
def execVamoadd (v : VArgs) (s : State) : Out := s.runVector (.vamoadd v)
def execVamomin (v : VArgs) (s : State) : Out := s.runVector (.vamomin v)
def execVamomax (v : VArgs) (s : State) : Out := s.runVector (.vamomax v)
def execVldk (v : VArgs) (s : State) : Out := s.runVector (.vldk v)
def execVstk (v : VArgs) (s : State) : Out := s.runVector (.vstk v)
def execMma (v : VArgs) (s : State) : Out := s.runVector (.mma v)
def execMconv (v : VArgs) (s : State) : Out := s.runVector (.mconv v)
def execMzero (v : VArgs) (s : State) : Out := s.runVector (.mzero v)
def execMrdrow (v : VArgs) (s : State) : Out := s.runVector (.mrdrow v)
def execMwrrow (v : VArgs) (s : State) : Out := s.runVector (.mwrrow v)
def execVpconv (v : VArgs) (s : State) : Out := s.runVector (.vpconv v)
def execVpconva (v : VArgs) (s : State) : Out := s.runVector (.vpconva v)
def execVpack (v : VArgs) (s : State) : Out := s.runVector (.vpack v)
def execVfext (v : VArgs) (s : State) : Out := s.runVector (.vfext v)
def execFlset (v : VArgs) (s : State) : Out := s.runVector (.flset v)
def execFlget (v : VArgs) (s : State) : Out := s.runVector (.flget v)
def execPclaim (v : VArgs) (s : State) : Out := s.runVector (.pclaim v)
def execPfree (v : VArgs) (s : State) : Out := s.runVector (.pfree v)
def execHfset (v : VArgs) (s : State) : Out := s.runVector (.hfset v)
def execHcode (v : VArgs) (s : State) : Out := s.runVector (.hcode v)
def execHprobe (v : VArgs) (s : State) : Out := s.runVector (.hprobe v)
def execHins (v : VArgs) (s : State) : Out := s.runVector (.hins v)
def execHdel (v : VArgs) (s : State) : Out := s.runVector (.hdel v)
def execHrehash (v : VArgs) (s : State) : Out := s.runVector (.hrehash v)
def execHfence (v : VArgs) (s : State) : Out := s.runVector (.hfence v)
def execHstat (v : VArgs) (s : State) : Out := s.runVector (.hstat v)

end Sys2Proof.Machine
end

