-- ==== Sys2Proof/Machine/Tiles.lean ====
section
/-!
DEFINITION. Sys2Proof/Machine/Tiles.lean: how stream and tile instructions start (R223, R224 of spec/13_streams.md), the tile table
and the tile instructions (R207 to R210 of spec/12_local_memories.md).
-/
namespace Sys2Proof.Machine

/-! ### The start of a stream or tile instruction (R223, R224) -/

/-- What the start of an instruction gives: its effect, a wait, or a trap, with the addresses that it has translated until then (R245). -/
inductive Start where
  | go (s : State)
  | wait
  | trap (t : TrapInfo) (seen : List Word := [])
  deriving DecidableEq, Repr

/-- A refusal of the word at the PC with EVAL and an element; a stream's element lies in no lane, and ELANE is 0 (log 35). -/
def State.wqRefusal (s : State) (c : Cause) (v : Word) (e : Nat) : TrapInfo :=
  { cause := c, bp := 0, epc := s.h.pc, eval := v, eelem := e, elane := 0 }

/-- Refuse with a number as EVAL. -/
def State.wqPerm (s : State) (n : Nat) : Start := .trap (s.wqRefusal .perm (BitVec.ofNat 64 n) 0)

/-- A trap at the start of a stream or tile instruction; an abort completion is resolved by Table 8.7, the strip sealed first (R159). -/
def State.startTrap (s : State) (t : TrapInfo) : State := if t.cause = .data then s.seal.aborted t else s.raise t

/-- Start the instruction at the PC, or let it wait in the stream queue behind what it has to wait for (R93, R223). -/
def State.startNow (s : State) (i : Instr) (f : State → Start) : Out :=
  let queued := s.mapH (fun h => { h with squeue := h.squeue ++ [{ pc := h.pc, word := i }] })
  if !s.h.convoys.isEmpty || !s.h.squeue.isEmpty then .next queued
  else match f s with
    | .go t => .next t.advance
    | .wait => .next queued.seal
    | .trap t seen => .next ((s.enteredAll seen).startTrap t)

/-- What a stream or tile instruction has written to X registers reaches the pipeline that runs ahead of it (R94). -/
def Hart.showFrom (old h : Hart) : Hart :=
  { h with front := h.front.map (fun f =>
    { f with x := (upTo 32).map (fun r => if h.x.getD r 0 = old.x.getD r 0 then f.x.getD r 0 else h.x.getD r 0) }) }

/-- Start the instruction at the head of the stream queue, if it may start. -/
def State.startHead (s : State) (f : State → Start) : State :=
  if !s.h.convoys.isEmpty then s
  else
    let s0 := s.mapH (fun h => { h with squeue := h.squeue.drop 1 })
    match f s0 with
    | .go t => (t.mapH (s.h.showFrom)).advance
    | .wait => s
    | .trap t seen => (s0.enteredAll seen).startTrap t

/-! ### The tile table (R207 to R209) -/

/-- Change tile `n` of core `core`. -/
def State.onTile (s : State) (core n : Nat) (f : Tile → Tile) : State :=
  s.onCore core (fun k => { k with tiles := modAt f n k.tiles })

/-- The tile that the hart in hand names. -/
def State.tile (s : State) (n : BitVec 6) : Tile := s.tileOf (s.h.id / 4) n.toNat

/-- Is the hart of a group other than the tile's owner group? -/
def State.foreign (s : State) (t : Tile) : Bool := t.alloc && !(t.owner == s.h.groupid && t.task == s.h.task)

/-- The code of a tile state (Table 12.3). -/
def TileState.code : TileState → Nat
  | .empty => 0
  | .filling => 1
  | .ready => 2
  | .draining => 3

/-- The image of an entry (Table 12.3). STREAM reads as 0 while the entry is not bound (DESIGN CHOICE, log 50). -/
def Tile.image (t : Tile) : Word :=
  if !t.alloc then 0
  else BitVec.ofNat 64 (t.state.code + 4 + 8 * t.bound.toNat + (if t.bound then 16 * t.stream else 0) + 2 ^ 8 * t.owner.toNat
    + 2 ^ 24 * t.base + 2 ^ 36 * t.len + 2 ^ 48 * t.expected + 2 ^ 56 * t.arrived)

/-- Number of convoys that use a tile, and of QREDs that have not read it yet (R209, R229). -/
def State.tileUses (s : State) (core n : Nat) : Nat :=
  (s.allHarts.map (fun h =>
    ((h.convoys.filter (fun c => c.issued && c.tiles.any (fun u => u.core == core && u.tile == n))).length)
      + (if h.id / 4 = core then
          (h.streams.filter (fun o => match o with
            | some q => q.kind == 2 && q.running && !q.sent && q.tn.toNat == n
            | none => false)).length
        else 0))).sum

/-- First key of a tile's bytes (R207). -/
def tileKey (core : Nat) (t : Tile) : Nat := localKey core (0x200000 + 1024 * t.base)

/-- Does a range of KiB overlap an allocated tile? -/
def Core.overlapsTile (k : Core) (base len : Nat) : Bool :=
  k.tiles.any (fun t => t.alloc && t.base < base + len && base < t.base + t.len)

/-! ### Tile instructions (R210): ILL, then PERM for a foreign hart, then PERM for the transition; EVAL the tile number -/

/-- A refusal of a tile instruction. -/
def State.tileRefuse (s : State) (q : WqArgs) (c : Cause) : Start := .trap (s.wqRefusal c (BitVec.ofNat 64 q.tn.toNat) 0)

def State.startTalloc (q : WqArgs) (s : State) : Start :=
  let base := (s.h.rx q.xa).toNat
  let len := (s.h.rx q.xb).toNat
  if !wqFieldsOk (.talloc q) || len == 0 || 2048 < base + len then s.tileRefuse q .ill
  else if (s.tile q.tn).alloc || s.core.overlapsTile base len then s.tileRefuse q .perm
  else .go (s.seal.onTile (s.h.id / 4) q.tn.toNat (fun _ =>
    { freeTile with alloc := true, base := base, len := len, owner := s.h.groupid, task := s.h.task }))

/-- TFREE waits for the use count in a transition out of READY (R209). -/
def State.startTfree (q : WqArgs) (s : State) : Start :=
  let t := s.tile q.tn
  if !wqFieldsOk (.tfree q) then s.tileRefuse q .ill
  else if s.foreign t then s.tileRefuse q .perm
  else if !t.alloc || !(t.state == .empty || t.state == .ready) then s.tileRefuse q .perm
  else if t.state = .ready ∧ 0 < s.tileUses (s.h.id / 4) q.tn.toNat then .wait
  else .go (s.seal.onTile (s.h.id / 4) q.tn.toNat (fun _ => freeTile))

def State.startTstat (q : WqArgs) (s : State) : Start :=
  if !wqFieldsOk (.tstat q) then s.tileRefuse q .ill else .go (s.setX q.xa (s.tile q.tn).image)

/-- TSET publishes the hart's stores: those of both agents are performed first. -/
def State.startTset (q : WqArgs) (s : State) : Start :=
  let t := s.tile q.tn
  if !wqFieldsOk (.tset q) then s.tileRefuse q .ill
  else if s.foreign t then s.tileRefuse q .perm
  else if !t.alloc || t.state != .empty then s.tileRefuse q .perm
  else .go ((s.seal.order true true).onTile (s.h.id / 4) q.tn.toNat (fun t => { t with state := .ready }))

/-- TRED zeroes the tile, then arms it; behind a QFOLD of the hart that is still to be applied to it (R269). -/
def State.startTred (q : WqArgs) (s : State) : Start :=
  let t := s.tile q.tn
  let n := (s.h.rx q.xa).toNat
  let core := s.h.id / 4
  if !wqFieldsOk (.tred q) || n == 0 || 255 < n then s.tileRefuse q .ill
  else if s.foreign t then s.tileRefuse q .perm
  else if !t.alloc || t.state != .empty then s.tileRefuse q .perm
  else if s.h.foldPending q.tn then .wait
  else
    let s2 := s.seal.flushClosed.strike (.vector s.h.id) (tileKey core t) (1024 * t.len) 0
    .go (s2.onTile core q.tn.toNat (fun t => { t with state := .filling, expected := n, arrived := 0, next := 0, buffer := [] }))

def execTalloc (q : WqArgs) (s : State) : Out := s.startNow (.talloc q) (State.startTalloc q)
def execTfree (q : WqArgs) (s : State) : Out := s.startNow (.tfree q) (State.startTfree q)
def execTstat (q : WqArgs) (s : State) : Out := s.startNow (.tstat q) (State.startTstat q)
def execTset (q : WqArgs) (s : State) : Out := s.startNow (.tset q) (State.startTset q)
def execTred (q : WqArgs) (s : State) : Out := s.startNow (.tred q) (State.startTred q)

end Sys2Proof.Machine
end

