-- ==== Sys2Proof/Machine/Streams.lean ====
section
/-!
DEFINITION. Sys2Proof/Machine/Streams.lean: streams: their starts, arrivals, failures and ends, QRED, QFOLD, QNVM, QWAIT, QAVAIL,
QCLOSE, QSAVE, QREST (R221 to R236 of spec/13_streams.md).
-/
namespace Sys2Proof.Machine

/-! ### The parts of a stream -/

/-- Conversion of a QLD or QST (Table 13.3). -/
def Stream.cv (q : Stream) : Nat := if q.kind.toNat ≤ 1 then q.mode.toNat % 4 else 0

/-- Bytes of an element at the device side (Table 13.4). -/
def Stream.deviceWidth (q : Stream) : Nat := if q.kind = 4 then 4096 else vtSew q.vt / 8

/-- Does the stream move a tile through FILLING or DRAINING? -/
def Stream.binds (q : Stream) : Bool := q.kind.toNat ≤ 1 || (q.kind == 4 && bitAt q.mode.toNat 0)

/-- Does the stream name a tile? -/
def Stream.namesTile (q : Stream) : Bool := q.kind.toNat ≤ 3 || bitAt q.mode.toNat 0

/-- Device address of element `e` (R227, R230, R231): for a converting stream its mantissa. -/
def Stream.address (q : Stream) (e : Nat) : Word :=
  if q.kind = 4 then q.xb + BitVec.ofNat 64 (4096 * e)
  else if q.kind = 3 ∨ q.cv ≠ 0 then q.xa + BitVec.ofNat 64 (e * q.deviceWidth)
  else q.xa + BitVec.ofNat 64 e * q.xb

/-- Address of scale byte `j` of a converting stream. -/
def Stream.scaleAddress (q : Stream) (j : Nat) : Word := q.xb + BitVec.ofNat 64 j

/-- Number of scale bytes. -/
def Stream.blocks (q : Stream) : Nat := ceilDiv q.total (vtBlock q.vt)

/-- Does the stream touch device memory, and how? -/
def Stream.access (q : Stream) : Option Access :=
  match q.kind.toNat with
  | 0 => some .load
  | 1 => some .store
  | 3 => some .load
  | 4 => if bitAt q.mode.toNat 0 then none else some .store
  | _ => none

/-- Lowest byte, and the byte after the highest, of `n` elements from `base` (R222). -/
def spanOf (base : Word) (n : Nat) (stride : Int) (width : Nat) : Nat × Nat :=
  let last : Int := (base.toNat : Int) + ((n : Int) - 1) * stride
  let lo := if last < base.toNat then last else base.toNat
  let hi := if last < base.toNat then (base.toNat : Int) else last
  ((lo % 2 ^ 64).toNat, (hi % 2 ^ 64).toNat + width)

/-- The AIT ranges of a stream (R222). -/
def Stream.spans (q : Stream) : List (Nat × Nat) :=
  if q.total = 0 ∨ q.access = none then []
  else
    let main := if q.kind = 4 then spanOf q.xb q.total 4096 4096
      else if q.kind = 3 ∨ q.cv ≠ 0 then spanOf q.xa q.total q.deviceWidth q.deviceWidth
      else spanOf q.xa q.total q.xb.toInt q.deviceWidth
    if q.cv ≠ 0 then [main, spanOf q.xb q.blocks 1 1] else [main]

/-- A stream that takes its ranges. -/
def Stream.ranged (q : Stream) : Stream :=
  match q.access with
  | some .store => { q with writes := q.spans }
  | some _ => { q with reads := q.spans }
  | none => q

/-- Do ranges meet? -/
def spansMeet (a b : List (Nat × Nat)) : Bool := a.any (fun r => b.any (fun t => r.1 < t.2 && t.1 < r.2))

/-- Must a stream wait for an earlier one of its hart (R222)? -/
def Hart.conflicts (h : Hart) (q : Stream) : Bool :=
  h.streams.any (fun o => match o with
    | none => false
    | some p => p.running && (spansMeet (p.reads ++ p.writes) q.writes || spansMeet p.writes q.reads))

/-- Must a stream wait for a migration of the hart that stands before it (R261, R269; log 57)? -/
def State.migrationMeets (s : State) (q : Stream) : Bool :=
  q.reads.any (fun r => s.migrationHolds false r.1 (r.2 - r.1)) || q.writes.any (fun r => s.migrationHolds true r.1 (r.2 - r.1))

/-- Must the access to a record at `va` wait for a running stream of the hart, or for a migration (R269; log 57)? -/
def State.recordWaits (s : State) (write : Bool) (va : Word) : Bool :=
  if localBase ≤ va.toNat then s.streamHolds write (s.h.id / 4) (va.toNat - localBase) 32
  else s.h.interlocked write va.toNat 32 || s.migrationHolds write va.toNat 32

/-- The hart's stream of a handle. -/
def Hart.stream (h : Hart) (n : Nat) : Option Stream := h.streams.getD n none

/-- Keep the stream of a handle. -/
def State.setStream (s : State) (n : Nat) (o : Option Stream) : State :=
  s.mapH (fun h => { h with streams := h.streams.set n o })

/-! ### Start checks (R224) -/

/-- Step 1, the fields of the word apart: VT and operands (R226, R227, R229, R230, R231). A QNVM whose X[xa][63:56] is not zero is refused
here, with ILL (DESIGN CHOICE, log 38: R231 says what is required, not what follows). -/
def State.streamVt (s : State) (i : Instr) : Bool :=
  let vt := s.h.vt
  let fmt := vtFmt vt
  let cvOk := fun (cv : Nat) => cv == 0 || (fmt == 4 && s.h.sew == (if cv = 1 then 16 else 8) && vtBlkCode vt != 0)
  match i with
  | .qld q => 8 ≤ s.h.sew && cvOk (q.mode.toNat % 4)
  | .qst q => 8 ≤ s.h.sew && cvOk (q.mode.toNat % 4)
  | .qred q => 8 ≤ s.h.sew && fmt != 3 && field (s.h.rx q.xa) 6 2 == 0 && (s.h.rx q.xa).toNat < 2 ^ 20
      && (s.h.rx q.xb).toNat ≤ 254
  | .qfold _ => 8 ≤ s.h.sew && (fmt ≤ 1 || (fmt == 2 && 32 ≤ s.h.sew))
  | .qnvm q => field (s.h.rx q.xa) 56 8 == 0
  | _ => true

/-- The stream that an instruction would start. -/
def State.newStream (s : State) (kind : BitVec 5) (q : WqArgs) : Stream :=
  let plain := kind.toNat ≤ 1 ∧ q.mode.toNat % 4 = 0
  { kind := kind, mode := q.mode, tn := q.tn, xa := s.h.rx q.xa,
    xb := if plain ∧ q.xb = 0 then BitVec.ofNat 64 (s.h.sew / 8) else s.h.rx q.xb,
    vt := s.h.vt, total := s.h.vln, n := 0, arrived := [], moving := [], status := 0, complete := false, reads := [], writes := [],
    ctxid := s.h.ctxid, sup := s.h.trap.sup, age := s.dev.steps, since := s.dev.nextWrite, sent := false, held := [] }

/-- The tile state that a stream needs at its start (R208). -/
def neededState (kind : BitVec 5) : TileState := if kind = 0 ∨ kind = 4 then .empty else .ready

/-- Is the destination core of a QRED one that is enabled and runs a group of the task? -/
def State.destOk (s : State) (q : Stream) : Bool :=
  s.coreEnabled (field q.xa 17 3) (field q.xa 8 9) && s.runsTask q.destCore s.h.task

/-- The device addresses of a stream with the element of each: elements, then scale bytes (R224 step 7). -/
def Stream.probes (q : Stream) : List (Word × Nat) :=
  if q.access = none then []
  else (upTo q.total).map (fun e => (q.address e, e))
    ++ (if q.cv ≠ 0 then (upTo q.blocks).map (fun j => (q.scaleAddress j, j * vtBlock q.vt)) else [])

/-- Translate an address of a stream. -/
def State.streamPlace (s : State) (q : Stream) (a : Access) (va : Word) : Except Denial Place := s.translateAs q.ctxid q.sup a va

/-- How an address of a stream is refused at its start: by translation only (R224 step 7); an abort completion fails the stream later
(R225). -/
def State.probe (s : State) (q : Stream) (a : Access) (va : Word) : Option Denial :=
  match s.streamPlace q a va with
  | .error .page => some .page
  | .error .perm => some .perm
  | _ => none

/-- The lower of two failures. -/
def lowerFailure (x y : Option (Word × Nat × Denial)) : Option (Word × Nat × Denial) :=
  match x, y with
  | some a, some b => if b.1.toNat < a.1.toNat then some b else some a
  | none, y => y
  | x, none => x

/-- The lowest of some addresses that fails, with its element and how it is denied. -/
def State.lowestFailure (s : State) (q : Stream) (a : Access) : List (Word × Nat) → Option (Word × Nat × Denial)
  | [] => none
  | (va, e) :: l => lowerFailure ((s.probe q a va).map (fun d => (va, e, d))) (s.lowestFailure q a l)

/-- The first that fails of those of `n` pages of 64 KiB, from page `p` on, that `pick` picks: the lowest address in it from `lo` on. -/
def State.firstBadPage (s : State) (q : Stream) (a : Access) (pick : Nat → Bool) (lo p : Nat) : Nat → Option (Nat × Denial)
  | 0 => none
  | n + 1 =>
    let va := max lo (65536 * p)
    match (if pick p then s.probe q a (BitVec.ofNat 64 va) else none) with
    | some d => some (va, d)
    | none => s.firstBadPage q a pick lo (p + 1) n

/-- Addresses in `n` pages from page `p` on, up to the first page that fails. -/
def State.pagesSeen (s : State) (q : Stream) (a : Access) (p : Nat) : Nat → List Word
  | 0 => []
  | n + 1 =>
    let va := BitVec.ofNat 64 (65536 * p)
    va :: (if (s.probe q a va).isSome then [] else s.pagesSeen q a (p + 1) n)

/-- Number of pages of a range. -/
def rangePages (r : Nat × Nat) : Nat := if r.1 < r.2 then (min r.2 (2 ^ 64) - 1) / 65536 + 1 - r.1 / 65536 else 0

/-- Element of an address in the stream's range number `i`: in the first the element itself, or the one before it on the way through the
range where the address lies in a gap (DESIGN CHOICE, log 56); for a scale byte the first of its block. -/
def Stream.elementAt (q : Stream) (i a : Nat) : Nat :=
  if i = 1 then (a - q.xb.toNat) * vtBlock q.vt
  else
    let stride : Int := if q.kind = 4 then 4096 else if q.kind = 3 ∨ q.cv ≠ 0 then q.deviceWidth else q.xb.toInt
    let base : Int := if q.kind = 4 then q.xb.toNat else q.xa.toNat
    if stride = 0 then 0 else (((a : Int) - base) / stride).toNat

/-- The lowest address at which the start of a stream is refused (R224 step 7): over every page of every range, with its element. -/
def State.rangeFailure (s : State) (q : Stream) (a : Access) : Option (Word × Nat × Denial) :=
  let page := fun (i : Nat) (r : Nat × Nat) => (s.firstBadPage q a (fun _ => true) r.1 (r.1 / 65536) (rangePages r)).map (fun f =>
    (BitVec.ofNat 64 f.1, q.elementAt i f.1, f.2))
  match q.spans with
  | [] => none
  | [r] => lowerFailure (s.lowestFailure q a q.probes) (page 0 r)
  | r :: r2 :: _ => lowerFailure (s.lowestFailure q a q.probes) (lowerFailure (page 0 r) (page 1 r2))

/-- What the translation of those of `n` pages from page `p` that `pick` picks leaves (R245). -/
def State.enteredPages (s : State) (c : BitVec 16) (pick : Nat → Bool) (p : Nat) : Nat → State
  | 0 => s
  | n + 1 => (if pick p then s.enteredAs c (BitVec.ofNat 64 (65536 * p)) else s).enteredPages c pick (p + 1) n

/-- What the translations of the pages of a stream leave, and of those that `pick` picks. -/
def State.enteredSome (s : State) (q : Stream) (pick : Nat → Bool) : State :=
  q.spans.foldl (fun s r => s.enteredPages q.ctxid pick (r.1 / 65536) (rangePages r)) s
def State.enteredStream (s : State) (q : Stream) : State := s.enteredSome q (fun _ => true)

/-- The addresses that step 7 of R224 has translated where it refuses a stream. -/
def State.refusedPages (s : State) (q : Stream) : List Word :=
  match q.access with
  | none => []
  | some a => q.spans.flatMap (fun r => s.pagesSeen q a (r.1 / 65536) (rangePages r))

/-- How the pages of a stream that `pick` picks are refused, if one is: as the lowest that fails (DESIGN CHOICE, log 66: R225 and Table 13.6 do not
say which status stands where they differ). -/
def State.pageDenial (s : State) (q : Stream) (a : Access) (pick : Nat → Bool) : Option Denial :=
  let bad := q.spans.filterMap (fun r => s.firstBadPage q a pick r.1 (r.1 / 65536) (rangePages r))
  (bad.foldl (fun b x => match b with | some y => if x.1 < y.1 then some x else b | none => some x) none).map (·.2)

/-- The base and the stride that step 6 checks, with the element size. -/
def Stream.misaligned (q : Stream) : Option (Word × Nat) :=
  let w := q.deviceWidth
  if q.access = none then none
  else if q.kind = 4 then (if q.xb.toNat % 4096 ≠ 0 then some (q.xb, 0) else none)
  else if q.xa.toNat % w ≠ 0 then some (q.xa, 0)
  else if q.kind.toNat ≤ 1 ∧ q.cv = 0 ∧ q.xb.toNat % w ≠ 0 then some (q.xa + q.xb, 1)
  else none

/-- Steps 5 to 7 of R224. -/
def State.streamFault (s : State) (q : Stream) (t : Tile) : Option TrapInfo :=
  if q.total = 0 then none
  else if q.binds ∧ 1024 * t.len < q.total * q.width then some (s.wqRefusal .shape 0 (1024 * t.len / q.width))
  else if (q.kind = 2 ∧ 1024 * t.len < q.total * q.width) ∨ (q.kind = 3 ∧ 1024 * t.len < q.width) then
    some (s.wqRefusal .shape 0 (1024 * t.len / q.width))
  else match q.misaligned with
    | some (v, e) => some (s.wqRefusal .align v e)
    | none => match q.access with
      | none => none
      | some a => (s.rangeFailure q a).map (fun f => s.wqRefusal (match f.2.2 with | .perm => .perm | _ => .page) f.1 f.2.1)

/-! ### Progress and ends (R221, R225, Table 12.4) -/

/-- Change the tile of a stream of the hart in hand, if the stream is bound to it. -/
def State.onBound (s : State) (h : Nat) (q : Stream) (f : Tile → Tile) : State :=
  s.onTile (s.h.id / 4) q.tn.toNat (fun t => if t.bound && t.stream == h && t.hart == s.h.id then f t else t)

/-- The state that a bound tile takes when its stream completes. -/
def Stream.doneState (q : Stream) : TileState := if q.kind = 1 ∧ !bitAt q.mode.toNat 2 then .empty else .ready

/-- The stream of handle `n` is complete. -/
def State.completeStream (s : State) (n : Nat) (q : Stream) : State :=
  let s1 := if q.binds then s.onBound n q (fun t => { t with state := q.doneState, bound := false }) else s
  s1.setStream n (some { q with n := q.total, arrived := [], moving := [], complete := true, reads := [], writes := [] })

/-- The stream of handle `n` fails (R225). -/
def State.failStream (s : State) (n : Nat) (q : Stream) (status : BitVec 8) : State :=
  let s1 := s.onBound n q (fun t => { t with state := if t.state = .draining then .ready else .empty, bound := false })
  s1.setStream n (some { q with status := status, moving := [], reads := [], writes := [] })

/-- Status of a denial (Table 13.6). -/
def statusOf : Denial → BitVec 8
  | .page => 1
  | .perm => 2
  | .abort => 3

/-- The prefix that finished elements make up (R221). -/
def advancePrefix (arrived : List Nat) : Nat → Nat → Nat
  | 0, n => n
  | fuel + 1, n => if arrived.contains n then advancePrefix arrived fuel (n + 1) else n

/-- Elements `es` of the stream have finished. -/
def State.finishElements (s : State) (n : Nat) (q : Stream) (es : List Nat) : State :=
  let arrived := es ++ q.arrived
  let m := advancePrefix arrived (q.total - q.n) q.n
  let q1 := { q with n := m, arrived := arrived.filter (fun e => m ≤ e) }
  if m = q.total then s.completeStream n q1 else s.setStream n (some q1)

/-! ### Starts -/

/-- Start a stream whose word passes steps 1 to 3 (R224 steps 4 to 7, R227 to R231). It waits for the uses of its tile (R209), and for a QFOLD
of the hart that is still to be applied there (R269). A QRED at VL = 0 starts complete and sends nothing, so
that its destination counts no contribution (DEDUCED from R224, log 63). -/
def State.launch (s : State) (kind : BitVec 5) (a : WqArgs) (q : Stream) : Start :=
  let t := s.tile a.tn
  let core := s.h.id / 4
  if q.namesTile && s.foreign t then s.wqPerm a.tn.toNat
  else if q.namesTile && (!t.alloc || t.state != neededState kind) then s.wqPerm a.tn.toNat
  else if kind = 2 ∧ !s.destOk q then .trap (s.wqRefusal .perm q.xa 0)
  else if kind = 1 ∧ 0 < s.tileUses core a.tn.toNat then .wait
  else if kind ≠ 3 ∧ q.namesTile ∧ s.h.foldPending a.tn then .wait
  else match s.streamFault q t with
    | some f => .trap f (if f.cause = .page ∨ f.cause = .perm then s.refusedPages q else [])
    | none =>
      let s1 := s.seal.flushClosed.enteredStream q
      let s2 := if q.binds then s1.onTile core a.tn.toNat (fun t =>
        { t with state := if kind = 1 then .draining else .filling, bound := true, stream := a.qn.toNat, hart := s.h.id }) else s1
      .go (if q.total = 0 then s2.completeStream a.qn.toNat q else s2.setStream a.qn.toNat (some q))

/-- Steps 1 and 3 of R224 for an instruction that takes a free handle. One that conflicts with an earlier stream does not start, so that
nothing of it but its encoding is checked yet (R222, R224). -/
def State.startStream (i : Instr) (kind : BitVec 5) (a : WqArgs) (s : State) : Start :=
  let q := (s.newStream kind a).ranged
  if !wqFieldsOk i || !s.streamVt i then .trap (s.wqRefusal .ill s.h.pc 0)
  else if s.h.conflicts q || s.migrationMeets q then .wait
  else if (s.h.stream a.qn.toNat).isSome then s.wqPerm a.qn.toNat
  else s.launch kind a q

def execQld (q : WqArgs) (s : State) : Out := s.startNow (.qld q) (State.startStream (.qld q) 0 q)
def execQst (q : WqArgs) (s : State) : Out := s.startNow (.qst q) (State.startStream (.qst q) 1 q)
def execQred (q : WqArgs) (s : State) : Out := s.startNow (.qred q) (State.startStream (.qred q) 2 q)
def execQfold (q : WqArgs) (s : State) : Out := s.startNow (.qfold q) (State.startStream (.qfold q) 3 q)
def execQnvm (q : WqArgs) (s : State) : Out := s.startNow (.qnvm q) (State.startStream (.qnvm q) 4 q)

/-! ### Arrivals -/

/-- A write of `n` bytes at a place for a stream of the hart in hand, or for a record, as a vector store: it is accepted (R228, R268). -/
def State.writePlace (s : State) (c : BitVec 16) (va : Word) (p : Place) (n v : Nat) : State :=
  s.accept (.vector s.h.id) (storeOf c va p n v) false

/-- Read bytes as the vector agent of the hart in hand. -/
def State.readVector (s : State) (k n : Nat) : Nat := readLE (s.readAs (.vector s.h.id)) k n

/-- Read `n` bytes at each of some keys for a stream, each read a request of its own (R269, R278, R323). -/
def State.streamReads (s : State) (n : Nat) : List Nat → State × List Nat
  | [] => (s, [])
  | k :: ks =>
    let t := s.afterRead (.vector s.h.id) k n
    let r := t.streamReads n ks
    (r.1, t.readVector k n :: r.2)

/-- Where an element of a stream of `n` bytes leads; an abort completion of its read, or of a write to the memory of a lost die, denies it
(R225, R296). -/
def State.elementPlace (s : State) (q : Stream) (a : Access) (va : Word) (n : Nat) : Except Denial Place :=
  match s.streamPlace q a va with
  | .error d => .error d
  | .ok p => if a = .store then (if isDevKey p.key && s.dev.lost.getLsbD (dieOfKey p.key) then .error .abort else .ok p)
             else s.readable p n

/-- Translate addresses of elements of `n` bytes, in order. -/
def State.streamPlaces (s : State) (q : Stream) (a : Access) (n : Nat) : List Word → Except Denial (List Place)
  | [] => .ok []
  | va :: l => match s.elementPlace q a va n with
    | .error d => .error d
    | .ok p => match s.streamPlaces q a n l with
      | .error d => .error d
      | .ok ps => .ok (p :: ps)

/-- Has an element of higher index at the address of `e` been written (R228)? -/
def Stream.shadowed (q : Stream) (e : Nat) : Bool :=
  (upTo q.n ++ q.arrived ++ q.moving.flatMap (·.elems)).any (fun i => e < i && q.address i == q.address e)

/-- Elements of block `j`. -/
def Stream.block (q : Stream) (j : Nat) : List Nat :=
  (upTo (vtBlock q.vt)).map (· + j * vtBlock q.vt) |>.filter (· < q.total)

/-- One element of a plain QLD or QST: its transfer, or the denial it meets. -/
def State.movePlain (s : State) (q : Stream) (t : Tile) (e : Nat) : Except Denial State :=
  let w := q.deviceWidth
  let k := tileKey (s.h.id / 4) t + e * w
  match s.elementPlace q (if q.kind = 0 then .load else .store) (q.address e) w with
  | .error d => .error d
  | .ok p =>
    if q.kind = 0 then
      let r := s.streamReads w [p.key]
      .ok (r.1.strike (.vector s.h.id) k w (r.2.headD 0))
    else if s.aborts k w then .error .abort
    else if q.shadowed e then .ok s
    else .ok (s.writePlace q.ctxid (q.address e) p w (s.readVector k w))

/-- One block of a converting QLD (R227, R128): rounding under RNE, no flag. -/
def State.expandBlock (s : State) (q : Stream) (t : Tile) (j : Nat) : Except Denial State :=
  let w := q.deviceWidth
  let es := q.block j
  match s.elementPlace q .load (q.scaleAddress j) 1, s.streamPlaces q .load w (es.map q.address) with
  | .error d, _ => .error d
  | _, .error d => .error d
  | .ok p, .ok ps =>
    let sc := s.streamReads 1 [p.key]
    let r := sc.1.streamReads w (ps.map (·.key))
    .ok ((es.zip r.2).foldl (fun s x =>
      s.strike (.vector s.h.id) (tileKey (s.h.id / 4) t + 4 * x.1) 4 (dequantElem binary32 0 (8 * w) (sc.2.headD 0) x.2).1) r.1)

/-- One block of a converting QST (R227, R126, R127): RNE and clamping, no flag. -/
def State.formBlock (s : State) (q : Stream) (t : Tile) (j : Nat) : Except Denial State :=
  let w := q.deviceWidth
  let es := q.block j
  let at' := fun e => tileKey (s.h.id / 4) t + 4 * e
  match s.elementPlace q .store (q.scaleAddress j) 1, s.streamPlaces q .store w (es.map q.address) with
  | .error d, _ => .error d
  | _, .error d => .error d
  | .ok p, .ok ps =>
    let x := fun e => s.readVector (at' e) 4
    let sc := blockScale binary32 (es.map x)
    if es.any (fun e => s.aborts (at' e) 4) then .error .abort
    else .ok (((es.zip ps).foldl (fun s r =>
      s.writePlace q.ctxid (q.address r.1) r.2 w (quantElem binary32 (8 * w) sc (x r.1)).1) s).writePlace q.ctxid (q.scaleAddress j) p 1 sc)

/-- The device addresses that an arrival of element `e` accesses, with the bytes of each: the scale byte of its block and the block when
the stream converts. -/
def Stream.arrivals (q : Stream) (e : Nat) : List (Word × Nat) :=
  if q.access = none then []
  else if q.cv = 0 then [(q.address e, q.deviceWidth)]
  else (q.scaleAddress (e / vtBlock q.vt), 1) :: (q.block (e / vtBlock q.vt)).map (fun i => (q.address i, q.deviceWidth))

/-- What stands before the accesses of a stream, and the entries that its translations leave: before its reads the hart's vector writes, before its
writes those that were accepted before it started, to whatever bytes (R223, R236, R245, R269). -/
def State.streamReady (s : State) (q : Stream) (as : List (Word × Nat)) : State :=
  (if q.access = some .store then s.drainWhere (fun w => ownVector s.h.id w && w.id < q.since) else s.atHome).enteredFor q.ctxid (as.map (·.1))

/-- The stream of handle `n` is denied (R225): by translation, or by an abort completion, which the error log of the die that finds it
records (R296): at one of the device addresses that it accesses, or at key `k` of its tile or buffer. -/
def State.denyStream (s : State) (n : Nat) (q : Stream) (as : List (Word × Nat)) (k : Nat) (d : Denial) : State :=
  if d ≠ .abort then s.failStream n q (statusOf d)
  else
    let own := dieOfHart s.h.id
    let site := match as.find? (fun a => match s.elementPlace q (q.access.getD .load) a.1 a.2 with | .error x => x == .abort | .ok _ => false) with
      | some a => (s.finder q.ctxid own a.1, a.1.toNat)
      | none => (own, k)
    (s.logError site.1 .abort site.2 s.h.id q.ctxid.toNat).failStream n q 3

/-- The entry of the target table that a QNVM names. -/
def State.targetKey (s : State) (q : Stream) : Nat := windowKey (dieOfHart s.h.id) (0x50000 + 64 * field q.xa 48 8)

/-- Is it good for the QNVM (R231, R326)? -/
def State.targetOk (s : State) (q : Stream) : Bool :=
  let d := fun i => s.mem.dword (s.targetKey q + 8 * i)
  bitAt (d 0).toNat 0 && !bitAt (d 0).toNat 1 && field (d 0) 16 16 == q.ctxid.toNat && (d 5 == 4096)

/-- One block of a QNVM (R231): its bytes are those of the storage (log 6). -/
def State.readStorage (s : State) (q : Stream) (t : Tile) (e : Nat) : Except Denial State :=
  let bytes := (upTo 4096).map (fun i => Config.storageByte s.dev.steps (field q.xa 48 8) (field q.xa 0 48 + e) i)
  if bitAt q.mode.toNat 0 then
    let k := tileKey (s.h.id / 4) t + 4096 * e
    .ok (s.strike (.vector s.h.id) k 4096 (packList 8 (bytes.map (·.toNat))))
  else match s.elementPlace q .store (q.address e) 4096 with
    | .error d => .error d
    | .ok p => .ok (s.writePlace q.ctxid (q.address e) p 4096 (packList 8 (bytes.map (·.toNat))))

/-- Elements `es` of the stream of handle `n` have moved to state `s`; `first` is the number of the first write that they may have had accepted.
Where they have no write of their own, an element of higher index at their address stands for them, if its write is on its way (R228). -/
def State.movedElements (s : State) (n : Nat) (q : Stream) (first : Nat) (es : List Nat) : State :=
  let hides := fun (m : Moving) => m.elems.any (fun i => es.any (fun e => e < i && q.address i == q.address e))
  if s.dev.nextWrite ≠ first then
    let dies := (s.dev.writes.filter (fun w => first ≤ w.id && !w.repl)).map (·.target)
    s.setStream n (some { q with moving := q.moving ++ [{ elems := es, first := first, count := s.dev.nextWrite - first, dies := distinct dies }] })
  else if q.moving.any hides then
    s.setStream n (some { q with moving := q.moving.map (fun m => if hides m then { m with elems := m.elems ++ es } else m) })
  else s.finishElements n q es

/-- Is a write one of those of moving elements? -/
def Moving.owns (m : Moving) (w : Write) : Bool := m.first ≤ w.id && w.id < m.first + m.count

/-- Elements whose writes are on their way reach memory: these are performed, and the elements have finished (R228). Where a die that they go to is
lost, the stream fails; the error log has it from the write (R225, R296). -/
def State.landElements (s : State) (n : Nat) (q : Stream) (m : Moving) : State :=
  if m.dies.any s.dev.lost.getLsbD then s.failStream n q 3
  else (s.drainWhere m.owns).finishElements n { q with moving := q.moving.erase m } m.elems

/-- STREAM_ELEMENT_ARRIVAL (R221) on the hart in hand: element `e` of handle `n`, with its whole block when the stream
converts, is transferred behind the hart's own earlier vector writes (R223, R269); a denial fails the stream (R225). An element that is written
to memory takes two of them: it goes on its way as a vector store does, and arrives (R228; log 67). The blocks of a QNVM arrive over the Ultra
Ethernet ports (R1, R231); the entry of the target table is read at each of them, and a bad one fails the stream without them (DESIGN CHOICE,
log 38: R231 speaks of the first block). -/
def State.arrive (s : State) (n e : Nat) : State :=
  match s.h.stream n with
  | none => s
  | some q =>
    let t := s.tile q.tn
    if !q.running || q.total ≤ e || e < q.n || q.arrived.contains e then s
    else match q.moving.find? (fun m => m.elems.contains e) with
    | some m => s.landElements n q m
    | none =>
      if q.kind == 4 && s.targetOk q && s.dev.ports == 0 then s
      else
        let j := e / vtBlock q.vt
        let as := q.arrivals e
        let s := s.streamReady q as
        let moved : Option (Except Denial State × List Nat) :=
          if q.kind.toNat ≤ 1 ∧ q.cv = 0 then some (s.movePlain q t e, [e])
          else if q.kind = 0 then some (s.expandBlock q t j, q.block j)
          else if q.kind = 1 then some (s.formBlock q t j, q.block j)
          else if q.kind = 4 then some (s.readStorage q t e, [e])
          else none
        match moved with
        | none => s
        | some (r, es) =>
          if q.kind = 4 ∧ s.poisoned (s.targetKey q) 64 then s.denyStream n q [] (s.targetKey q) .abort
          else if q.kind = 4 ∧ !s.targetOk q then s.failStream n q 4
          else match r with
            | .error d => s.denyStream n q as (tileKey (s.h.id / 4) t) d
            | .ok s1 => s1.movedElements n q s.dev.nextWrite es

def execStreamElementArrival (hart handle element : Nat) (s : State) : Out := .next (s.withHart hart (·.arrive handle element))

/-- May a running stream fail with this status (R225, Table 13.6)? INDEX and DEST arise at a QRED's destination only. -/
def State.mayFail (s : State) (q : Stream) (status : Nat) : Bool :=
  let left := q.probes.filter (fun p => q.n ≤ p.2 && !(q.arrived ++ q.moving.flatMap (·.elems)).contains p.2)
  let denied := fun (d : Denial) => match q.access with
    | none => false
    | some a => left.any (fun p => match s.streamPlace q a p.1 with | .error x => x == d | .ok _ => false)
  match status with
  | 1 => denied .page
  | 2 => denied .perm
  | 3 => q.kind != 2 || !q.sent
  | 4 => q.kind == 4 && !s.targetOk q
  | 5 => q.kind == 4 && s.dev.ports != 0
  | _ => false

/-- STREAM_FAIL (R225) on the hart in hand. -/
def State.streamFails (s : State) (n status : Nat) : State :=
  match s.h.stream n with
  | none => s
  | some q =>
    if !q.running || !s.mayFail q status then s
    else if status = 3 then s.denyStream n q [] (tileKey (s.h.id / 4) (s.tile q.tn)) .abort
    else s.failStream n q (BitVec.ofNat 8 status)

def execStreamFail (hart handle status : Nat) (s : State) : Out := .next (s.withHart hart (·.streamFails handle status))

/-! ### QRED (R229) -/

/-- QRED_SEND on the hart in hand: the elements of the source tile are read. -/
def State.sendContribution (s : State) (n : Nat) : State :=
  match s.h.stream n with
  | none => s
  | some q =>
    if q.kind ≠ 2 ∨ !q.running ∨ q.sent then s
    else
      let w := q.deviceWidth
      let k := tileKey (s.h.id / 4) (s.tile q.tn)
      if s.aborts k (q.total * w) then s.denyStream n q [] k .abort
      else
        let s1 := s.atHome
        s1.setStream n (some { q with sent := true, held := (upTo q.total).map (fun e => s1.readVector (k + e * w) w) })

def execQredSend (hart handle : Nat) (s : State) : Out := .next (s.withHart hart (·.sendContribution handle))

/-- The add of a contribution's VT (R229): wrapping, or rounded once with its flags dropped. -/
def contributionAdd (vt : BitVec 11) (a b : Nat) : Nat :=
  if vtFmt vt = 2 then (fpAdd (formatOf vt) (vtRm vt) a b).1 else (a + b) % 2 ^ vtSew vt

/-- The source stream of a contribution completes. -/
def State.completeSource (s : State) (c : Contribution) : State :=
  let done := fun (q : Stream) => if q.kind = 2 ∧ q.sent ∧ q.running then { q with n := q.total, complete := true } else q
  s.onHart c.hart (fun h => { h with streams := modAt (fun o => o.map done) c.handle h.streams })

/-- The source stream of a contribution whose add meets an uncorrectable error fails with DATA (R225, R296). -/
def State.failSource (s : State) (c : Contribution) : State :=
  let gone := fun (q : Stream) => if q.kind = 2 ∧ q.sent ∧ q.running then { q with status := 3 } else q
  s.onHart c.hart (fun h => { h with streams := modAt (fun o => o.map gone) c.handle h.streams })

/-- A tile that has received every contribution (Table 12.4), and one that has received one more. -/
def Tile.filled (t : Tile) : Tile := { t with state := .ready, expected := 0, arrived := 0, next := 0, buffer := [] }

def Tile.applied (t : Tile) (c : Contribution) : Tile :=
  let buffer := t.buffer.filter (fun d => d.index != c.index)
  { t with arrived := t.arrived + 1, next := t.next + 1, buffer := buffer }

/-- Apply the contributions in the buffer that are next in order. One that meets an uncorrectable error in the tile fails and is never applied; later
ones wait behind its index (R229, R296; log 68). -/
def State.applyBuffered (s : State) (core n : Nat) : Nat → State
  | 0 => s
  | fuel + 1 =>
    let t := s.tileOf core n
    match t.buffer.find? (fun c => c.index == t.next) with
    | none => s
    | some c =>
      let w := vtSew c.vt / 8
      let k := tileKey core t
      let n1 := w * c.data.length
      if s.aborts k n1 then
        (((s.logError (core / 512) .abort k c.hart (s.hartOf c.hart).ctxid.toNat).failSource c).onTile core n (fun t =>
          { t with buffer := t.buffer.filter (fun d => d.index != c.index) }))
      else
      let s0 := s.beforeHome (.vector c.hart) k n1
      let sums := (c.data.zip (upTo c.data.length)).map (fun p => contributionAdd c.vt (readLE s0.mem.read (k + p.2 * w) w) p.1)
      let s1 := s0.perform (.vector c.hart) (cellsOf k n1 (packList (8 * w) sums))
      let done := t.arrived + 1 = t.expected
      let s2 := (s1.completeSource c).onTile core n (fun t => if done then t.filled else t.applied c)
      State.applyBuffered s2 core n fuel

/-- QRED_CONTRIBUTION_ARRIVAL (R229): the contribution of the hart in hand's handle `n` reaches its destination. One beyond
the reorder buffer stays at its source. -/
def State.contribute (s : State) (n : Nat) : State :=
  match s.h.stream n with
  | none => s
  | some q =>
    let core := q.destCore
    let tn := q.destTile
    let t := s.tileOf core tn
    let k := q.xb.toNat
    if q.kind ≠ 2 ∨ !q.running ∨ !q.sent then s
    else if t.buffer.any (fun c => c.hart == s.h.id && c.handle == n) then s
    else if !t.alloc || t.state != .filling || t.bound || t.expected == 0 || 1024 * t.len < q.total * q.deviceWidth then
      s.failStream n q 7
    else if t.expected ≤ k || k < t.next || t.buffer.any (fun c => c.index == k) then s.failStream n q 6
    else if t.next + 4 ≤ k then s
    else
      let c : Contribution := { hart := s.h.id, handle := n, index := k, vt := q.vt, data := q.held }
      (s.onTile core tn (fun t => { t with buffer := t.buffer ++ [c] })).applyBuffered core tn 4

def execQredContributionArrival (hart handle : Nat) (s : State) : Out := .next (s.withHart hart (·.contribute handle))

/-! ### QFOLD (R230) -/

/-- Is the stream the QFOLD of its tile that started first among those still to be applied, and has no earlier QRED of the hart still to read the
tile (R230, R269)? -/
def State.firstFold (s : State) (q : Stream) : Bool :=
  (s.hartsOfCore (s.h.id / 4)).all (fun h => h.streams.all (fun o => match o with
    | some p => !(p.running && p.tn == q.tn && (p.kind == 3 || (p.kind == 2 && !p.sent && h.id == s.h.id))) || q.age ≤ p.age
    | none => true))

/-- The fold of elements into an accumulator. -/
def foldOf (vt : BitVec 11) (unord : Bool) (acc : Nat) (xs : List Nat) : Nat :=
  if vtFmt vt = 2 then
    (if unord then treeReduce (formatOf vt) (vtRm vt) acc (xs.map some) else orderedSum (formatOf vt) (vtRm vt) acc (xs.map some)).1
  else (acc + xs.sum) % 2 ^ vtSew vt

/-- QFOLD_APPLY on the hart in hand. It folds into the tile's entry as it then stands, also where the tile has been freed, or has left READY,
since the QFOLD started (DESIGN CHOICE, log 64: it holds no use of the tile). -/
def State.applyFold (s : State) (n : Nat) : State :=
  match s.h.stream n with
  | none => s
  | some q =>
    if q.kind ≠ 3 ∨ !q.running ∨ !s.firstFold q then s
    else
      let w := q.deviceWidth
      let k := tileKey (s.h.id / 4) (s.tile q.tn)
      let as := (upTo q.total).map (fun e => (q.address e, w))
      let s := s.streamReady q as
      match s.streamPlaces q .load w (as.map (·.1)) with
      | .error d => s.denyStream n q as k d
      | .ok ps =>
        if s.aborts k w then s.denyStream n q [] k .abort
        else
          let r := s.streamReads w (ps.map (·.key))
          (r.1.strike (.vector s.h.id) k w (foldOf q.vt (bitAt q.mode.toNat 0) (r.1.readVector k w) r.2)).completeStream n q

def execQfoldApply (hart handle : Nat) (s : State) : Out := .next (s.withHart hart (·.applyFold handle))

/-! ### QWAIT, QAVAIL, QCLOSE (R232, R233) -/

/-- Refuse with QERR: status and N. -/
def State.qerr (s : State) (q : Stream) : State := s.raise (s.wqRefusal .qerr (q.status.zeroExtend 64) q.n)

/-- QWAIT (R232). -/
def execQwait (q : WqArgs) (s : State) : Out :=
  if !wqFieldsOk (.qwait q) then s.illegal
  else match s.h.stream q.qn.toNat with
    | none => .next (s.raise (s.wqRefusal .perm (q.qn.zeroExtend 64) 0))
    | some t =>
      if t.status ≠ 0 then .next (s.qerr t)
      else if t.complete ∨ (s.h.rx q.xa).toNat ≤ t.n then .next s.advance
      else .next (s.mapH (fun h => { h with wait := .qwait q.qn.toNat (h.rx q.xa) }))

/-- QWAIT_RETURN (R232) on the hart in hand. -/
def State.qwaitReturn (s : State) : State :=
  match s.h.wait with
  | .qwait n c => match s.h.stream n with
    | none => s
    | some t =>
      let s1 := s.mapH (fun h => { h with wait := .none })
      if t.status ≠ 0 then s1.qerr t
      else if t.complete ∨ c.toNat ≤ t.n then s1.advance
      else s
  | _ => s

def execQwaitReturn (hart : Nat) (s : State) : Out := .next (s.withHart hart State.qwaitReturn)

/-- QAVAIL's value (Table 13.5). -/
def Stream.avail (q : Stream) : Word :=
  BitVec.ofNat 64 (q.n % 2 ^ 48 + 2 ^ 48 * q.complete.toNat + 2 ^ 49 * (q.status != 0).toNat)

def State.startQavail (q : WqArgs) (s : State) : Start :=
  if !wqFieldsOk (.qavail q) then .trap (s.wqRefusal .ill s.h.pc 0)
  else match s.h.stream q.qn.toNat with
    | none => s.wqPerm q.qn.toNat
    | some t => .go (s.setX q.xa t.avail)

def execQavail (q : WqArgs) (s : State) : Out := s.startNow (.qavail q) (State.startQavail q)

/-- What a QCLOSE does with a stream that has ended. -/
def State.closeEnded (s : State) (n : Nat) (t : Stream) : State :=
  let s1 := s.setStream n none
  if t.status ≠ 0 then s1.qerr t else s1.advance

/-- QCLOSE (R233). -/
def execQclose (q : WqArgs) (s : State) : Out :=
  let n := q.qn.toNat
  if !wqFieldsOk (.qclose q) then s.illegal
  else match s.h.stream n with
    | none => .next (s.raise (s.wqRefusal .perm (q.qn.zeroExtend 64) 0))
    | some t =>
      if t.running then .next (s.seal.mapH (fun h => { h with wait := .qclose n })) else .next (s.seal.closeEnded n t)

/-- QCLOSE_RETURN (R233) on the hart in hand. -/
def State.qcloseReturn (s : State) : State :=
  match s.h.wait with
  | .qclose n => match s.h.stream n with
    | none => s
    | some t => if t.running then s else (s.mapH (fun h => { h with wait := .none })).closeEnded n t
  | _ => s

def execQcloseReturn (hart : Nat) (s : State) : Out := .next (s.withHart hart State.qcloseReturn)

/-! ### QSAVE, QREST (R234) -/

/-- The record of a stream (Table 13.7). -/
def Stream.record (q : Stream) : Nat :=
  2 ^ 29 + 2 ^ 30 * q.complete.toNat + 2 ^ 31 * q.kind.toNat + 2 ^ 36 * q.mode.toNat + 2 ^ 39 * q.tn.toNat
    + 2 ^ 45 * q.vt.toNat + 2 ^ 56 * q.status.toNat + 2 ^ 64 * (q.total % 2 ^ 32) + 2 ^ 96 * (q.n % 2 ^ 32)
    + 2 ^ 128 * q.xa.toNat + 2 ^ 192 * q.xb.toNat

/-- The checks of the record address (R234): ALIGN, then PAGE or PERM. -/
def State.recordPlace (s : State) (a : Access) (va : Word) : Except TrapInfo Place :=
  if va.toNat % 32 ≠ 0 then .error (s.wqRefusal .align va 0)
  else match (s.scalarPlace a va).bind (fun p => if a ≠ .store ∧ s.readAborts true p.key 32 then .error .abort else .ok p) with
    | .ok p => .ok p
    | .error d => .error (s.wqRefusal (match d with | .page => .page | .perm => .perm | .abort => .data) va 0)

/-- The address of a record that is refused has been translated, but for ALIGN (R245). -/
def recordSeen (t : TrapInfo) : List Word := if t.cause = .align then [] else [t.eval]

/-- QSAVE, once no other stream of the hart holds the record's bytes (R269). The writes of elements on their way are performed before the stream counts as paused; those elements are moved again (log 67). -/
def State.startQsave (a : WqArgs) (s : State) : Start :=
  let n := a.qn.toNat
  if !wqFieldsOk (.qsave a) then .trap (s.wqRefusal .ill s.h.pc 0)
  else if !s.h.trap.sup then .trap (s.wqRefusal .perm 0 0)
  else match s.h.stream n with
    | none => s.wqPerm n
    | some q => match s.recordPlace .store (s.h.rx a.xa) with
      | .error t => .trap t (recordSeen t)
      | .ok p =>
        if (q.kind = 2 ∧ q.sent ∧ q.running) ∨ (s.setStream n none).recordWaits true (s.h.rx a.xa) then .wait
        else
          let s0 := (s.seal.flushClosed.enteredScalar (s.h.rx a.xa)).drainWhere (fun w => q.moving.any (·.owns w))
          let s1 := (s0.writePlace s.h.ctxid (s.h.rx a.xa) p 32 q.record).onBound n q (fun t => { t with bound := false })
          .go (s1.setStream n none)

/-- A stream from a record, in the hands of the hart that restores it. -/
def State.streamOfRecord (s : State) (r : Nat) : Stream :=
  let f := fun lo n => r / 2 ^ lo % 2 ^ n
  { kind := BitVec.ofNat 5 (f 31 5), mode := BitVec.ofNat 3 (f 36 3), tn := BitVec.ofNat 6 (f 39 6),
    xa := BitVec.ofNat 64 (f 128 64), xb := BitVec.ofNat 64 (f 192 64), vt := BitVec.ofNat 11 (f 45 11), total := f 64 32,
    n := f 96 32, arrived := [], moving := [], status := BitVec.ofNat 8 (f 56 8), complete := f 30 1 == 1, reads := [], writes := [],
    ctxid := s.h.ctxid, sup := s.h.trap.sup, age := s.dev.steps, since := s.dev.nextWrite, sent := false, held := [] }

/-- The tile state that a record's kind left (R234). -/
def leftState (kind : BitVec 5) : TileState := if kind = 1 then .draining else if kind = 2 ∨ kind = 3 then .ready else .filling

/-- QREST, once no stream of the hart has yet to write the record (R269). -/
def State.startQrest (a : WqArgs) (s : State) : Start :=
  let n := a.qn.toNat
  if !wqFieldsOk (.qrest a) then .trap (s.wqRefusal .ill s.h.pc 0)
  else if !s.h.trap.sup then .trap (s.wqRefusal .perm 0 0)
  else if (s.h.stream n).isSome then s.wqPerm n
  else match s.recordPlace .load (s.h.rx a.xa) with
    | .error t => .trap t (recordSeen t)
    | .ok p =>
      if s.recordWaits false (s.h.rx a.xa) then .wait else
      let s0 := (s.seal.flushClosed.atHome.enteredScalar (s.h.rx a.xa)).streamReads 32 [p.key]
      let s1 := s0.1
      let r := s0.2.headD 0
      let q := s.streamOfRecord r
      let t := s.tile q.tn
      let q1 := if q.running then q.ranged else q
      if r / 2 ^ 29 % 2 = 0 ∨ r % 2 ^ 29 ≠ 0 ∨ 4 < q.kind.toNat then .trap (s.wqRefusal .ill s.h.pc 0) [s.h.rx a.xa]
      else if s.h.conflicts q1 || s.migrationMeets q1 then .wait
      else if q.namesTile && (s.foreign t || !t.alloc || t.state != leftState q.kind) then
        .trap (s.wqRefusal .perm (BitVec.ofNat 64 q.tn.toNat) 0) [s.h.rx a.xa]
      else
        let s2 := if q.binds then s1.onTile (s.h.id / 4) q.tn.toNat (fun t =>
          { t with bound := true, stream := n, hart := s.h.id }) else s1
        .go (s2.setStream n (some q1))

def execQsave (q : WqArgs) (s : State) : Out := s.startNow (.qsave q) (State.startQsave q)
def execQrest (q : WqArgs) (s : State) : Out := s.startNow (.qrest q) (State.startQrest q)

/-! ### STREAM_START and TILE_USE_DRAIN -/

/-- The start of a word that waits in the stream queue. -/
def startOf : Instr → Option (State → Start)
  | .qld q => some (State.startStream (.qld q) 0 q)
  | .qst q => some (State.startStream (.qst q) 1 q)
  | .qred q => some (State.startStream (.qred q) 2 q)
  | .qfold q => some (State.startStream (.qfold q) 3 q)
  | .qnvm q => some (State.startStream (.qnvm q) 4 q)
  | .qavail q => some (State.startQavail q)
  | .qsave q => some (State.startQsave q)
  | .qrest q => some (State.startQrest q)
  | .talloc q => some (State.startTalloc q)
  | .tfree q => some (State.startTfree q)
  | .tstat q => some (State.startTstat q)
  | .tset q => some (State.startTset q)
  | .tred q => some (State.startTred q)
  | _ => none

/-- STREAM_START (R223, R224) on the hart in hand. -/
def State.streamStart (s : State) : State :=
  match s.h.squeue with
  | [] => s
  | e :: _ => match startOf e.word with
    | none => s
    | some f => s.startHead f

def execStreamStart (hart : Nat) (s : State) : Out := .next (s.withHart hart State.streamStart)

/-- TILE_USE_DRAIN (R209) on the hart in hand: the QST or TFREE at the head of its stream queue takes effect once no use of
its tile is left. -/
def State.useDrain (s : State) : State :=
  match s.h.squeue with
  | [] => s
  | e :: _ =>
    let go := fun (q : WqArgs) (f : State → Start) => if s.tileUses (s.h.id / 4) q.tn.toNat = 0 then s.startHead f else s
    match e.word with
    | .qst q => go q (State.startStream (.qst q) 1 q)
    | .tfree q => go q (State.startTfree q)
    | _ => s

def execTileUseDrain (hart : Nat) (s : State) : Out := .next (s.withHart hart State.useDrain)

end Sys2Proof.Machine
end

