-- ==== Sys2Proof/Machine/Hearth.lean ====
section
/-!
DEFINITION. Sys2Proof/Machine/Hearth.lean: queues, packets and their checks, the deal rule, dispatch, the ends of harts, groups
and tasks (R311 to R322, R334, R335 of spec/22_fabric_and_host.md).
-/
namespace Sys2Proof.Machine

/-! ### Accesses of a Hearth (R335) -/

/-- The copies of one byte that a write makes (R244). -/
def Place.copies (p : Place) (b : Byte) : List Host.Cell :=
  if p.repl then (upTo 6).map (fun d => (devKey d (p.key % 2 ^ 37), b)) else [(p.key, b)]

/-- The requests of the walks of a die's Hearth for a range, and those of its reads of the range as well (R323; log 45). -/
def State.hearthWalks (s : State) (die c : Nat) (va : Word) (n : Nat) : State :=
  (pagesOf va n).foldl (fun s p => s.asked (hearthOf die) die (s.leafReads c p)) s
def State.hearthAsked (s : State) (die c : Nat) (va : Word) (n : Nat) : State :=
  (pagesOf va n).foldl (fun s p => match s.hearthPlace die c .load p with
    | .ok q => s.asked (hearthOf die) die [targetDie q.key]
    | .error _ => s) (s.hearthWalks die c va n)

/-- Write `n` bytes, little-endian. -/
def State.hearthStore (s : State) (die c : Nat) (va : Word) (n v : Nat) : Except (Denial × Word) State :=
  (s.hearthPlaces die c .store va n).map (fun ps =>
    let cs := ((cellsOf 0 n v).zip ps).flatMap (fun p => p.2.copies p.1.2)
    ((s.hearthWalks die c va n).beforeCells (.hearth die) cs).perform (.hearth die) cs)

/-- Log how an access of die `die`'s Hearth in context `c` was denied: an abort completion in the log of the die that found it (R296; log 61). -/
def State.logDenied (s : State) (die c : Nat) (kind : LogKind) (queue : Nat) (d : Denial × Word) : State :=
  s.logError (if d.1 = .abort then s.finder (BitVec.ofNat 16 c) die d.2 else die) kind d.2.toNat queue c

/-- Is the address that of a signal or of a SIGNAL target: aligned, R and W, ATOM, not REPL (R316, R335)? -/
def State.signalPlace (s : State) (die c : Nat) (va : Word) : Option Nat :=
  if va.toNat % 8 ≠ 0 then none
  else match s.hearthPlace die c .atomic va with
    | .ok p => if p.atom ∧ !p.repl then some p.key else none
    | .error _ => none

/-- The place of a WAIT target: aligned, R, ATOM (R317, R335). -/
def State.waitPlace (s : State) (die c : Nat) (va : Word) : Option Nat :=
  if va.toNat % 8 ≠ 0 then none
  else match s.hearthPlace die c .load va with
    | .ok p => if p.atom then some p.key else none
    | .error _ => none

/-- Change a signal or a SIGNAL target by one atomic. -/
def State.signalWrite (s : State) (die key : Nat) (f : Word → Word) : State :=
  let s := s.beforeHome (.hearth die) key 8
  s.perform (.hearth die) (cellsOf key 8 (f (s.mem.dword key)).toNat)

/-- The same for a packet of a queue in context `c`, at address `va`; an atomic that reads an uncorrectable error changes nothing, and the error log
says so (R296; log 18). -/
def State.signalBy (s : State) (die c queue : Nat) (va : Word) (key : Nat) (reads : Bool) (f : Word → Word) : State :=
  let t := s.hearthWalks die c va 8
  if reads && s.aborts key 8 then t.logDenied die c .abort queue (.abort, va) else t.signalWrite die key f

/-! ### Queue descriptors (Table 22.3) -/

/-- Write STATE and CMD of a queue (Table 22.3). -/
def State.setDesc (s : State) (die q state cmd : Nat) : State :=
  s.hearthChange die (0x30000 + 64 * q + 9) (fun b => b / 64 * 64 + 16 * cmd + 4 * state + b % 4)

/-- Forget a queue that has stopped; keep one that has not. -/
def State.dropQueue (s : State) (die q : Nat) : State :=
  s.mapDev (fun d => { d with queues := d.queues.filter (fun r => !(r.die == die && r.queue == q)) })
def State.setQueue (s : State) (r : QueueRun) : State :=
  s.mapDev (fun d => { d with queues := r :: d.queues.filter (fun o => !(o.die == r.die && o.queue == r.queue)) })

/-- The packets of a queue that have started and not ended. -/
def State.started (s : State) (die q : Nat) : List Packet := s.dev.packets.filter (fun p => p.die == die && p.queue == q)

/-- A queue that stops reaches STATE 0 once its started packets have ended (R314, R322). -/
def State.settleQueue (s : State) (die q : Nat) : State :=
  match s.queue die q with
  | none => s
  | some r => if (r.state ≠ 1 ∨ r.stop) ∧ (s.started die q).isEmpty then (s.setDesc die q 0 0).dropQueue die q else s

/-- A slot or record that fails its check stops the queue (R314); an abort completion met there is logged as one, too (R296). -/
def State.stopQueue (s : State) (die q : Nat) : State :=
  let c := s.descCtxid die q
  let d := (s.slotFault die q).getD (.page, 0)
  let t := (if d.1 = .abort then s.logDenied die c .abort q d else s).hearthAsked die c (s.slotAt die q) 8
  match s.queue die q with
  | none => s
  | some r => ((t.logError die .slot d.2.toNat q c).setQueue { r with stop := true }).settleQueue die q

/-- Write a status record (Table 22.7); one that fails its check is not written, and the error log says so (R335). Nor is one whose address stands
in a descriptor that holds an error (R296; log 69). -/
def State.writeRecord (s : State) (p : Packet) (outcome : Nat) (cause : BitVec 8) (group : BitVec 16) : State :=
  if s.descAborts p.die p.queue then s.logWindow p.die (0x30000 + 64 * p.queue)
  else match s.hearthStore p.die p.ctxid.toNat (s.recordAt p.die p.queue p.slot) 8 (outcome + 2 ^ 8 * cause.toNat + 2 ^ 16 * group.toNat) with
  | .ok t => t
  | .error d => s.logDenied p.die p.ctxid.toNat .record p.queue d

/-- Take the packet at READ, whose slot has passed its check, out of its slot: V := 0, then READ := READ + 1 (R314). -/
def State.takeSlot (s : State) (die q : Nat) : State × Packet :=
  let c := s.descCtxid die q
  let a := s.slotAt die q
  let body := (upTo 8).map (fun i => match s.hearthRead die c (a + BitVec.ofNat 64 (8 * i)) 8 with
    | .ok v => BitVec.ofNat 64 v
    | .error _ => (0 : Word))
  let p : Packet := { id := s.dev.nextPacket, die := die, queue := q, slot := s.slotIndex die q, body := body,
                      ctxid := BitVec.ofNat 16 c, waiting := [], live := [], imaged := [], kobj := noKobj, phase := .running,
                      cause := 0, group := 0 }
  let s0 := s.hearthAsked die c a 64
  let s1 := match s0.hearthStore die c a 1 ((body.getD 0 0).toNat % 256 / 2 * 2) with | .ok t => t | .error _ => s0
  let s2 := s1.hearthWrite die (0x30000 + 64 * q + 24) 4 ((s.descRead die q + 1) % 2 ^ 32)
  (s2.mapDev (fun d => { d with nextPacket := d.nextPacket + 1 }), p)

/-! ### Packets (Tables 22.4, 22.5) -/

/-- Fields of a packet. -/
def Packet.dword (p : Packet) (i : Nat) : Word := p.body.getD i 0
def Packet.bar (p : Packet) : Bool := bitAt (p.dword 0).toNat 1
def Packet.type (p : Packet) : Nat := field (p.dword 0) 4 4
def Packet.signal (p : Packet) : Word := p.dword 1
def Packet.sup (p : Packet) : Bool := bitAt (p.dword 0).toNat 17
def Packet.gprio (p : Packet) : Nat := field (p.dword 0) 18 3
def Packet.dieMask (p : Packet) : Nat := field (p.dword 0) 21 6
def Packet.peer (p : Packet) : Nat := field (p.dword 0) 16 8
def Packet.len (p : Packet) : Nat := field (p.dword 4) 0 40

/-- The format check of R317: zero fields, refused values, LEN not 0. -/
def Packet.formatOk (p : Packet) : Bool :=
  let h := p.dword 0
  let rest := fun (n : Nat) => ((upTo 8).drop n).all (fun i => p.dword i == 0)
  field h 32 32 == 0 && field h 11 5 == 0 && field h 2 2 == 0 && field h 8 3 ≤ 5 &&
    (match p.type with
      | 0 => field h 16 16 == 0 && rest 2
      | 1 => field h 27 5 == 0 && 1 ≤ (p.dword 3).toNat && (p.dword 3).toNat ≤ 65536
      | 2 => field h 24 8 == 0 && (p.dword 4).toNat < 2 ^ 40 && p.dword 4 != 0 && rest 5
      | 3 => field h 17 15 == 0 && rest 4
      | 4 => field h 19 13 == 0 && field h 16 3 ≤ 3 && rest 4
      | _ => false)

/-- The kernel object at an address, if R318 accepts it. An uncorrectable error in it has its packet refused with cause 2 (DESIGN CHOICE, log 19:
R318 lists no such case). -/
def State.kobj (s : State) (die c : Nat) (a : Word) : Option Kobj :=
  if a.toNat % 64 ≠ 0 then none
  else match s.hearthRead die c a 64 with
    | .error _ => none
    | .ok v =>
      let d := fun i => v / 2 ^ (64 * i) % 2 ^ 64
      let k : Kobj := { entry := BitVec.ofNat 64 (d 0), sdm := BitVec.ofNat 64 (d 1), sdmLen := d 2, vsp := BitVec.ofNat 64 (d 3),
                        vspLen := d 4, harts := d 5 + 1 }
      if 65536 < k.sdmLen ∨ 2097152 < k.vspLen ∨ 3 < d 5 ∨ d 6 ≠ 0 ∨ d 7 ≠ 0 then none
      else if (k.sdmLen ≠ 0 ∧ !s.hearthOk die c .load k.sdm k.sdmLen) ∨ (k.vspLen ≠ 0 ∧ !s.hearthOk die c .load k.vsp k.vspLen)
      then none
      else some k

/-- The address check of R317. -/
def State.addressOk (s : State) (p : Packet) : Bool :=
  let c := p.ctxid.toNat
  (p.signal == 0 || (s.signalPlace p.die c p.signal).isSome)
    && (match p.type with
      | 2 => s.hearthOk p.die c .load (p.dword 2) p.len && (p.peer != 0 || s.hearthOk p.die c .store (p.dword 3) p.len)
      | 3 => (s.signalPlace p.die c (p.dword 2)).isSome
      | 4 => (s.waitPlace p.die c (p.dword 2)).isSome
      | _ => true)

/-- How the kernel object or an image of a LAUNCH is denied. -/
def State.kobjDenied (s : State) (die c : Nat) (a : Word) : Option (Denial × Word) :=
  match s.hearthRead die c a 64 with
  | .error d => some d
  | .ok v =>
    let d := fun (i : Nat) => v / 2 ^ (64 * i) % 2 ^ 64
    let image := fun (i cap : Nat) => if d (i + 1) = 0 ∨ cap < d (i + 1) then none else s.hearthFault die c .load (BitVec.ofNat 64 (d i)) (d (i + 1))
    (image 1 65536).orElse (fun _ => image 3 2097152)

/-- The ranges that the address check of R317 translates, and how. -/
def Packet.ranges (p : Packet) : List (Access × Word × Nat) :=
  (if p.signal = 0 then [] else [(.atomic, p.signal, 8)])
    ++ (match p.type with
      | 2 => (.load, p.dword 2, p.len) :: (if p.peer = 0 then [(.store, p.dword 3, p.len)] else [])
      | 3 => [(.atomic, p.dword 2, 8)]
      | 4 => [(.load, p.dword 2, 8)]
      | _ => [])

/-- The abort completion, if any, for which a packet is refused with a cause (R296). -/
def State.packetAbort (s : State) (p : Packet) (cause : BitVec 8) : Option (Denial × Word) :=
  let c := p.ctxid.toNat
  (if cause = 5 then p.ranges.filterMap (fun r => s.hearthFault p.die c r.1 r.2.1 r.2.2)
    else if cause = 2 then (s.kobjDenied p.die c (p.dword 2)).toList
    else []).find? (·.1 == .abort)

/-- The requests of the checks of a packet that passes the first of them (R317, R323). -/
def State.packetAsked (s : State) (p : Packet) : State :=
  let t := p.ranges.foldl (fun s r => s.hearthWalks p.die p.ctxid.toNat r.2.1 r.2.2) s
  if p.type = 1 then t.hearthAsked p.die p.ctxid.toNat (p.dword 2) 64 else t

/-- The cause that refuses a packet, 0 for none (R317). -/
def State.packetFault (s : State) (p : Packet) : BitVec 8 :=
  if !p.formatOk then 1
  else if p.type = 1 ∧ p.sup ∧ !s.descSupq p.die p.queue then 3
  else if p.type = 1 ∧ p.dieMask = 0 then 4
  else if !s.addressOk p then 5
  else if p.type = 1 ∧ (s.kobj p.die p.ctxid.toNat (p.dword 2)).isNone then 2
  else 0

/-! ### The deal rule (R312, R319) -/

/-- The enabled physical cores of a die, ascending: entry L is logical core L (R312). -/
def State.physical (s : State) (die : Nat) : List Nat := (upTo 36).filter (fun p => (s.dev.harvest.getD die 0).getLsbD p)

/-- The logical cores of cluster `c` of a die, ascending. -/
def State.clusterCores (s : State) (die c : Nat) : List Nat :=
  ((s.physical die).zip (upTo 36)).filterMap (fun p => if p.1 / 4 = c then some p.2 else none)

/-- The list that groups are dealt over: cores by number, die * 512 + logical core. -/
def State.dealList (s : State) (mask : Nat) (cluster : Bool) : List Nat :=
  let dies := (upTo 6).filter (bitAt mask)
  if cluster then
    (upTo 4).flatMap (fun j => dies.flatMap (fun d => (upTo 9).filterMap (fun c => ((s.clusterCores d c)[j]?).map (512 * d + ·))))
  else dies.flatMap (fun d => (upTo (s.coreCount d)).map (512 * d + ·))

/-- Core of group `g`. -/
def dealCore (l : List Nat) (g : Nat) : Option Nat := l[g % l.length]?

/-! ### The end of a packet (R314 to R316, R322) -/

/-- Forget a packet that has ended, and scan its queue again (R314). -/
def State.endPacket (s : State) (p : Packet) (good : Bool) : State :=
  let s1 := s.mapDev (fun d => { d with packets := d.packets.filter (·.id != p.id) })
  match s1.queue p.die p.queue with
  | none => s1
  | some r =>
    let s2 := s1.setQueue { r with span := r.span.filter (· != p.id), failed := r.failed || (!good && r.span.contains p.id) }
    (s2.settleQueue p.die p.queue).mapDev (fun d =>
      { d with requests := addRequest d.requests (.notify p.die p.queue (s2.postedTo p.die p.queue)) })

/-- Decrement the completion signal (R316); one that fails its check is left, and the error log says so (R335). -/
def State.signalDone (s : State) (p : Packet) : State :=
  if p.signal = 0 then s
  else match s.signalPlace p.die p.ctxid.toNat p.signal with
    | some k => s.signalBy p.die p.ctxid.toNat p.queue p.signal k true (· - 1)
    | none => s.logDenied p.die p.ctxid.toNat .signal p.queue ((s.hearthFault p.die p.ctxid.toNat .atomic p.signal 8).getD (.page, p.signal))

/-- A packet ends: its record, then for a completion its signal (Table 22.7). The completion releases every access of the task
(R316), so that what it has accepted is performed first (log 8). -/
def State.finishPacket (s : State) (p : Packet) (outcome : Nat) (cause : BitVec 8) (group : BitVec 16) : State :=
  if outcome = 1 then
    (((if p.type = 1 then s.drain else s).writeRecord p 1 0 0).signalDone p).endPacket p true
  else (s.writeRecord p outcome cause group).endPacket p false

/-! ### Starting packets (R314, R315, R317) -/

/-- The start of a packet taken from its slot; an abort completion for which it is refused is logged (R296). A task with a group on a lost die is
killed (R324). -/
def State.startPacket (s : State) (p : Packet) : State :=
  let cause := s.packetFault p
  let s := if cause = 0 ∨ cause = 5 ∨ cause = 2 then s.packetAsked p else s
  let s := match s.packetAbort p cause with | some d => s.logDenied p.die p.ctxid.toNat .abort p.queue d | none => s
  let s1 := s.mapDev (fun d => { d with packets := d.packets ++ [p] })
  if cause ≠ 0 then s1.finishPacket p 4 cause 0
  else match p.type with
    | 0 => s1.finishPacket p 1 0 0
    | 1 =>
      let l := s.dealList p.dieMask (bitAt (p.dword 0).toNat 16)
      let waiting := (upTo (p.dword 3).toNat).filterMap (fun g => (dealCore l g).map (fun c => (g, c)))
      let ko := (s.kobj p.die p.ctxid.toNat (p.dword 2)).getD noKobj
      let s2 := s.mapDev (fun d => { d with packets := d.packets ++ [{ p with waiting := waiting, kobj := ko }] })
      if waiting.any (fun w => s.dev.lost.getLsbD (w.2 / 512)) then s2.killTask p.id 0x0B 0 else s2
    | 3 =>
      let s2 := match s1.signalPlace p.die p.ctxid.toNat (p.dword 2) with
        | some k =>
          let adds := bitAt (p.dword 0).toNat 16
          s1.signalBy p.die p.ctxid.toNat p.queue (p.dword 2) k adds (fun v => if adds then v + p.dword 3 else p.dword 3)
        | none => s1
      s2.finishPacket p 1 0 0
    | _ => s1

/-- From READ, cancel every posted packet up to the first slot with V = 0 (R322); none from a descriptor that holds an error (log 69). -/
def State.cancelPosted (s : State) (die q : Nat) : Nat → State
  | 0 => s
  | n + 1 =>
    if s.descAborts die q then s.logWindow die (0x30000 + 64 * q)
    else if !s.slotOk die q then s.stopQueue die q
    else if !bitAt (s.slotHeader die q).toNat 0 then s
    else
      let r := s.takeSlot die q
      (r.1.writeRecord r.2 3 0 0).cancelPosted die q n

/-- Kill a started LAUNCH or COPY that is not being killed already (R322). -/
def State.killPacket (s : State) (p : Packet) (cause : BitVec 8) (group : BitVec 16) : State :=
  if (p.type = 1 ∨ p.type = 2) ∧ p.phase = .running then s.killTask p.id cause group else s

/-- Drain a queue that runs (STATE 2), or kill its packets as well (STATE 3), with the CMD that says so (R322). -/
def State.drainQueue (s : State) (die q state cmd : Nat) : State :=
  match s.queue die q with
  | none => s
  | some r =>
    let s1 := (s.setDesc die q state cmd).setQueue { r with state := state }
    let s2 := s1.cancelPosted die q (2 ^ s.descLog2n die q)
    let s3 := if state = 3 then (s2.started die q).foldl (fun s p => s.killPacket p 0 0) s2 else s2
    s3.settleQueue die q

/-- Is a request one of a queue, and is it a scan of it? -/
def HearthRequest.ofQueue (die q : Nat) : HearthRequest → Bool
  | .notify d n _ => d == die && n == q
  | .descriptor d n _ => d == die && n == q
  | _ => false
def HearthRequest.scans (die q : Nat) : HearthRequest → Bool
  | .notify d n _ => d == die && n == q
  | _ => false

/-- What a Hearth has to act on next for a queue: its requests are taken in the order of the writes that made them. -/
def State.nextRequest (s : State) (die q : Nat) : Option HearthRequest :=
  if s.hearthsUp then s.dev.requests.find? (·.ofQueue die q) else none

/-- The index before which the scan of a queue that is to be made next, if any, takes packets (R314). -/
def State.scanTo (s : State) (die q : Nat) : Option Nat :=
  match s.nextRequest die q with | some (.notify _ _ upto) => some upto | _ => none

/-- Is the packet at READ one that stood posted when its scan was asked for (R314)? -/
def State.inScan (s : State) (die q : Nat) : Bool :=
  match s.scanTo die q with
  | none => false
  | some u => let n := (u + 2 ^ 32 - s.descRead die q) % 2 ^ 32; decide (u < 2 ^ 32) && decide (1 ≤ n) && decide (n ≤ 65536)

/-- Has a queue a packet able to start (R315)? -/
def State.canStart (s : State) (die q : Nat) : Bool :=
  match s.queue die q with
  | none => false
  | some r => r.state == 1 && !r.stop && !s.descAborts die q && s.inScan die q && s.slotOk die q && bitAt (s.slotHeader die q).toNat 0
      && !(bitAt (s.slotHeader die q).toNat 1 && !r.span.isEmpty)

/-- The scan of a queue ends. -/
def State.endScan (s : State) (die q : Nat) : State :=
  s.mapDev (fun d => { d with requests := d.requests.eraseP (HearthRequest.scans die q) })

/-- One turn of a queue whose scan is under way (R314, R315). A barrier packet stands in the span that it opens, so that the
next barrier waits for it too (Table 22.9; log 18). A descriptor that holds an error ends the scan (R296; log 69). -/
def State.scanTurn (s : State) (die q : Nat) : State :=
  match s.queue die q with
  | none => s.endScan die q
  | some r =>
    if r.state ≠ 1 ∨ r.stop then s.endScan die q
    else if s.descAborts die q then (s.logWindow die (0x30000 + 64 * q)).endScan die q
    else if !s.slotOk die q then (s.stopQueue die q).endScan die q
    else if !s.canStart die q then (s.hearthAsked die (s.descCtxid die q) (s.slotAt die q) 8).endScan die q
    else
      let t := s.takeSlot die q
      let s1 := t.1.mapDev (fun d => { d with turns := d.turns.set (8 * die + s.descPrio die q) q })
      if t.2.bar ∧ r.failed then ((s1.writeRecord t.2 3 0 0).drainQueue die q 2 (s.descCmd die q)).endScan die q
      else if t.2.bar then (s1.setQueue { r with span := [t.2.id], failed := false }).startPacket t.2
      else (s1.setQueue { r with span := r.span ++ [t.2.id] }).startPacket t.2

/-- The queues of a die whose scan is under way. -/
def State.scanning (s : State) (die : Nat) : List Nat :=
  (upTo 64).filter (fun q => (s.scanTo die q).isSome)

/-- The queue that takes its turn: one whose scan ends, or of those able to start the one of highest PRIO, by ascending number
after the queue of that PRIO that had the last turn (R315). -/
def State.nextQueue (s : State) (die : Nat) : Option Nat :=
  let qs := s.scanning die
  match qs.find? (fun q => !s.canStart die q) with
  | some q => some q
  | none =>
    let top := qs.foldl (fun m q => max m (s.descPrio die q)) 0
    let ps := qs.filter (fun q => s.descPrio die q == top)
    match ps.find? (fun q => s.dev.turns.getD (8 * die + top) 63 < q) with
    | some q => some q
    | none => ps.head?

/-- The Hearth of a die scans until no scan is under way. -/
def State.scan (s : State) (die : Nat) : Nat → State
  | 0 => s
  | n + 1 => match s.nextQueue die with
    | none => s
    | some q => (s.scanTurn die q).scan die n

/-- Turns enough for every slot of every queue of a die. -/
def scanFuel : Nat := 2 ^ 23

/-- QUEUE_NOTIFY (R314): a write to a notify line of a running queue has been performed, and the Hearth scans: for the packets that stood
posted then, and no other (R327). -/
def execQueueNotify (die queue : Nat) (s : State) : Out :=
  .next (if (s.scanTo die queue).isSome then s.scan die scanFuel else s)

/-! ### Writes to a descriptor (R334) -/

/-- The value of the write to dword 1 of a descriptor that is to be acted on next (R334). -/
def State.descWrite (s : State) (die q : Nat) : Option Word :=
  match s.nextRequest die q with | some (.descriptor _ _ v) => some v | _ => none

/-- The oldest write to a descriptor has been acted on. -/
def State.descSeen (s : State) (die q : Nat) : State :=
  s.mapDev (fun d => { d with requests := d.requests.eraseP (fun r => match r with
    | .descriptor a n _ => a == die && n == q
    | _ => false) })

/-- What a write to a descriptor asks for while the queue's STATE stands as it does (R334): a command in a write that starts the queue is none
(log 18). -/
inductive DescAct where
  | start | drain | kill | none
  deriving DecidableEq, Repr

def descAct (state : Nat) (v : Word) : DescAct :=
  if state = 0 then (if wroteEn v then .start else .none)
  else if wroteCmd v = 1 then .drain
  else if wroteCmd v = 2 then .kill
  else .none

/-- The write to a descriptor that is to be acted on next, and what it asks for; nothing of a descriptor that holds an error (R296; log 69). -/
def State.descAsks (s : State) (die q : Nat) : Option DescAct :=
  (s.descWrite die q).map (fun v => if s.descAborts die q then .none else descAct (s.queueState die q) v)

/-- QUEUE_START: EN = 1 while STATE = 0. -/
def execQueueStart (die queue : Nat) (s : State) : Out :=
  .next (if s.descAsks die queue = some .start then
      ((s.descSeen die queue).setDesc die queue 1 0).setQueue
        { die := die, queue := queue, state := 1, span := [], failed := false, stop := false }
    else s)

/-- QUEUE_DRAIN: CMD = 1 while STATE is not 0. Of a queue that drains already, or is being killed, the packets posted since are cancelled; the latter
stays at STATE 3 (DESIGN CHOICE, log 18). -/
def execQueueDrain (die queue : Nat) (s : State) : Out :=
  .next (if s.descAsks die queue = some .drain then
      (s.descSeen die queue).drainQueue die queue (if s.queueState die queue = 3 then 3 else 2) 1
    else s)

/-- QUEUE_KILL: CMD = 2 while STATE is not 0. -/
def execQueueKill (die queue : Nat) (s : State) : Out :=
  .next (if s.descAsks die queue = some .kill then (s.descSeen die queue).drainQueue die queue 3 2 else s)

/-- QUEUE_CMD_CLEAR: a write with no effect: CMD = 3, or any CMD while STATE = 0 and EN = 0, is cleared; every other write leaves
the descriptor, but for STATE, which the Hearth keeps. -/
def execQueueCmdClear (die queue : Nat) (s : State) : Out :=
  let st := s.queueState die queue
  .next (match s.descWrite die queue with
    | none => s
    | some v =>
      if s.descAborts die queue then (s.logWindow die (0x30000 + 64 * queue)).descSeen die queue
      else if descAct st v = .none then
        (s.descSeen die queue).setDesc die queue st (if st = 0 ∨ wroteCmd v = 3 then 0 else s.descCmd die queue)
      else s)

/-! ### Ends of packets that wait or copy -/

/-- The running packet with a number, of a type. -/
def State.packet (s : State) (id type : Nat) : Option Packet :=
  s.dev.packets.find? (fun p => p.id == id && p.type == type && p.phase == .running)

/-- Finish a packet, and scan. -/
def State.finishAndScan (s : State) (p : Packet) (outcome : Nat) (cause : BitVec 8) (group : BitVec 16) : State :=
  (s.finishPacket p outcome cause group).scan p.die scanFuel

/-- COND of a WAIT (Table 22.5). -/
def waitHolds (cond : Nat) (a b : Word) : Bool :=
  match cond with
  | 0 => a == b
  | 1 => a != b
  | 2 => a.slt b
  | _ => b.sle a

/-- WAIT_CONDITION_MET (R315): the Hearth reads the target of a WAIT. One that meets an uncorrectable error goes on waiting (R296; log 18). -/
def execWaitConditionMet (packet : Nat) (s : State) : Out :=
  .next (match s.packet packet 4 with
    | none => s
    | some p =>
      let c := p.ctxid.toNat
      let t := s.hearthAsked p.die c (p.dword 2) 8
      match s.waitPlace p.die c (p.dword 2) with
      | none => s
      | some k =>
        if s.aborts k 8 then t.logDenied p.die c .abort p.queue (.abort, p.dword 2)
        else if waitHolds (field (p.dword 0) 16 3) (s.mem.dword k) (p.dword 3) then t.finishAndScan p 1 0 0
        else t)

/-- Move byte `i` of a copy; one that a denial meets is not moved, and the error log says so (log 19). A copy with a PEER completes without a look at
the entry of the target table that PEER names: no rule gives an outcome where it is not VALID, is a namespace, or is granted to another
context (DESIGN CHOICE, log 19). -/
def State.copyByte (p : Packet) (s : State) (i : Nat) : State :=
  let c := p.ctxid.toNat
  let t := s.hearthAsked p.die c (p.dword 2 + BitVec.ofNat 64 i) 1
  match s.hearthRead p.die c (p.dword 2 + BitVec.ofNat 64 i) 1 with
  | .error d => t.logDenied p.die c .copy p.queue d
  | .ok v => if p.peer ≠ 0 then t else match t.hearthStore p.die c (p.dword 3 + BitVec.ofNat 64 i) 1 v with
    | .ok u => u
    | .error d => t.logDenied p.die c .copy p.queue d

/-- Move the bytes of a copy that `sel` picks, in the order of step `n`. -/
def State.copyBytes (s : State) (p : Packet) (sel : Nat → Bool) : State :=
  let n := s.dev.steps
  (((upTo p.len).filter sel).mergeSort (fun i j => Config.copyTurn n i ≤ Config.copyTurn n j)).foldl (State.copyByte p) s

/-- Can a copy move: one to a peer goes over the Ultra Ethernet ports (R1, R325)? -/
def State.copyMoves (s : State) (p : Packet) : Bool := p.peer == 0 || s.dev.ports != 0

/-- COPY_COMPLETE (R315). -/
def execCopyComplete (packet : Nat) (s : State) : Out :=
  .next (match s.packet packet 2 with
    | none => s
    | some p => if !s.copyMoves p then s else (s.copyBytes p (fun _ => true)).finishAndScan p 1 0 0)

/-- PACKET_COMPLETE (R316, R321): a LAUNCH of which every group has retired. -/
def execPacketComplete (packet : Nat) (s : State) : Out :=
  .next (match s.packet packet 1 with
    | none => s
    | some p => if p.waiting.isEmpty ∧ p.live.isEmpty then s.finishAndScan p 1 0 0 else s)

/-! ### Dispatch (R318, R320) -/

/-- Change a packet. -/
def State.mapPacket (s : State) (id : Nat) (f : Packet → Packet) : State :=
  s.mapDev (fun d => { d with packets := d.packets.map (fun p => if p.id = id then f p else p) })

/-- Is a hart free: of no group that runs (R320, R321)? -/
def Hart.free (h : Hart) : Bool := !h.occupied

/-- The free harts of a core, ascending. -/
def State.freeHarts (s : State) (core : Nat) : List Nat := ((s.hartsOfCore core).filter (·.free)).map (·.id)

/-- Is a byte one of the local memories of a core? -/
def localTo (core k : Nat) : Bool := localKey core 0 ≤ k && k < localKey core (2 ^ 22)

/-- Empty the local memories of a core, behind every store to them that has been accepted; no byte of them holds an error then (R318,
Table 19.7). -/
def State.clearLocal (s : State) (core : Nat) : State :=
  let t := s.drainWhere (fun w => w.cells.any (fun c => localTo core c.1))
  ({ t with mem := t.mem.filter (fun c => !localTo core c.1) } : State).mapDev (fun d =>
    { d with poison := d.poison.filter (fun k => !localTo core k) })

/-- Write an image of `n` bytes at offset `off` of a core's local map: a write of the Hearth, behind the pair's requests where the core is one of
another die (R323). -/
def State.installImage (s : State) (die c core off : Nat) (va : Word) (n : Nat) : Except (Denial × Word) State :=
  (s.hearthRead die c va n).map (fun v =>
    let cs := cellsOf (localKey core off) n v
    ((s.hearthAsked die c va n).beforeCells (.hearth die) cs).perform (.hearth die) cs)

/-- Install the images of a task on a core (R318). -/
def State.installImages (s : State) (p : Packet) (core : Nat) : Except (Denial × Word) State :=
  let k := p.kobj
  match ((s.beforeCells (.hearth p.die) [(localKey core 0, 0)]).clearLocal core).installImage p.die p.ctxid.toNat core 0 k.sdm k.sdmLen with
  | .error d => .error d
  | .ok s1 => s1.installImage p.die p.ctxid.toNat core 0x200000 k.vsp k.vspLen

/-- The hart `id`, the `k`-th of group `g`, at its dispatch (R320). -/
def State.dispatched (s : State) (p : Packet) (g k id : Nat) : Hart :=
  let c := p.ctxid.toNat
  let d2 := s.contextDword c 2
  let x := (((List.replicate 32 (0 : Word)).set 1 exitPc).set 2 (p.dword 4 + p.dword 5 * BitVec.ofNat 64 (p.kobj.harts * g + k + 1)))
  let base := resetHart id
  { base with
    active := true, task := p.id, groupid := BitVec.ofNat 16 g, gprio := p.gprio, pc := p.kobj.entry,
    x := (x.set 10 (p.dword 6)).set 11 (p.dword 7), ctxid := p.ctxid,
    trap := { clearTrap with sup := p.sup, te := true, tvec := s.contextDword c 1, dbga := bitAt d2.toNat 38 },
    pmode := bitAt d2.toNat 33, retry := d2.extractLsb' 34 4, slice := s.dev.time }

/-- The code that a denial has as a trap (R318). -/
def denialCode : Denial → BitVec 8
  | .page => 0x04
  | .perm => 0x05
  | .abort => 0x0B

/-- Dispatch group `g` on core `c`. -/
def State.dispatch (s : State) (p : Packet) (g c : Nat) : State :=
  let ids := (s.freeHarts c).take p.kobj.harts
  let s1 := (ids.zip (upTo ids.length)).foldl (fun s i => s.onHart i.1 (fun _ => s.dispatched p g i.2 i.1)) s
  s1.mapPacket p.id (fun p => { p with waiting := p.waiting.filter (fun w => w.1 != g), live := p.live ++ [g],
                                       imaged := if p.imaged.contains c then p.imaged else p.imaged ++ [c] })

/-- GROUP_DISPATCH (R320): the lowest group of the packet that waits for the core named, when the core has room; groups bound for different
cores go in any order. The images are installed at the first group of the task on a core (R318). On a lost die the task is killed (R324), and so it
is where the context's entry, which die 0 holds, cannot be read (R296, R323; log 60). -/
def execGroupDispatch (pick : GroupPick) (s : State) : Out :=
  .next (match s.packet pick.packet 1 with
    | none => s
    | some p => match p.waiting.find? (fun w => w.2 == pick.core) with
      | none => s
      | some (g, c) =>
        if s.dev.lost.getLsbD (c / 512) then s.killTask p.id 0x0B 0
        else if (s.freeHarts c).length < p.kobj.harts then s
        else
          let s := s.asked (hearthOf p.die) p.die [0]
          if s.contextAborts p.ctxid.toNat then
            (s.logDenied p.die p.ctxid.toNat .abort p.queue (.abort, BitVec.ofNat 64 (windowKey 0 (0x20000 + 32 * p.ctxid.toNat)))).killTask p.id 0x0B
              (BitVec.ofNat 16 g)
          else if p.imaged.contains c then s.dispatch p g c
          else match s.installImages p c with
            | .ok s1 => s1.dispatch p g c
            | .error d => (s.logDenied p.die p.ctxid.toNat .image p.queue d).killTask p.id (denialCode d.1) (BitVec.ofNat 16 g))

/-! ### Ends of harts, groups and tasks (R321, R322) -/

/-- The hart in hand ends its part of its group (R321): its strip closes, its levels are abandoned, it becomes inactive. It keeps GRANT
until its group retires (R52, R53). -/
def State.exitHart (s : State) : State :=
  if s.h.active ∧ !s.h.stopped ∧ s.h.pc = exitPc ∧ s.h.convoys.isEmpty ∧ s.h.squeue.isEmpty ∧ s.h.ahead.isEmpty then
    let s1 := (if s.h.loops.opn then s.closeStrip else s).flushClosed
    let s2 := s1.mapH (fun h => { h with active := false, loops := { clearLoops with cdepth := h.loops.cdepth }, wait := .none, preempt := false, timer := false,
                                         taking := none, monitor := none, front := none })
    s2.settleCoreBar
  else s

/-- HART_EXIT. -/
def execHartExit (hart : Nat) (s : State) : Out := .next (s.withHart hart State.exitHart)

/-- Hart `id` becomes free: its panes are free (R202), its clusters released, its migrations stopped (R261). -/
def State.freeHart (s : State) (id : Nat) : State :=
  let s1 := s.onCore (id / 4) (fun k =>
    { (upTo 8).foldl (fun k c => k.leaveLine (id % 4) c) k with
      panes := k.panes.map (fun p => if p.owner == some id then freePane else p) })
  s1.onHart id (fun _ => resetHart id)

/-- The tiles of a task, or of one group of it, become free on a core, and the group's barrier count (R207). -/
def Core.freeTiles (task : Nat) (group : Option (BitVec 16)) (k : Core) : Core :=
  { k with tiles := k.tiles.map (fun t => if t.alloc && t.task == task && (match group with | some g => t.owner == g | none => true)
                                          then freeTile else t),
           bars := k.bars.filter (fun b => !(b.task == task && (match group with | some g => b.group == g | none => true))) }

/-- The harts of a group, or of a whole task. -/
def State.members (s : State) (task : Nat) (group : Option (BitVec 16)) : List Hart :=
  s.allHarts.filter (fun h => h.task == task && (match group with | some g => h.groupid == g | none => true))

/-- The harts and the cores of a group or task are freed. -/
def State.freeGroup (s : State) (task : Nat) (group : Option (BitVec 16)) : State :=
  let hs := (s.members task group).map (·.id)
  let s1 := hs.foldl State.freeHart s
  (hs.map (· / 4)).foldl (fun s c => s.onCore c (Core.freeTiles task group)) s1

/-- Has every stream of the hart completed or failed (R321)? -/
def Hart.streamsEnded (h : Hart) : Bool :=
  h.streams.all (fun o => match o with | none => true | some q => !q.running)

/-- GROUP_RETIRE (R321). -/
def execGroupRetire (packet group : Nat) (s : State) : Out :=
  .next (match s.packet packet 1 with
    | none => s
    | some p =>
      let g : BitVec 16 := BitVec.ofNat 16 group
      if p.live.contains group ∧ (s.members packet (some g)).all (fun h => !h.active && h.streamsEnded) then
        (s.freeGroup packet (some g)).mapPacket packet (fun p => { p with live := p.live.filter (· != group) })
      else s)

/-- TASK_QUIESCENCE (R322): nothing of a killed task is in flight, no convoy either; its harts, tiles and panes are free, and its record is
written. A killed copy may have moved some of its bytes. -/
def execTaskQuiescence (packet : Nat) (s : State) : Out :=
  .next (match s.dev.packets.find? (fun p => p.id == packet && p.phase == .killing) with
    | none => s
    | some p =>
      if !(s.members packet none).all (·.convoys.isEmpty) then s else
      let s1 := if p.type = 2 then s.copyBytes p (Config.copyMoved s.dev.steps) else (s.drain).freeGroup packet none
      s1.finishAndScan p 2 p.cause p.group)

end Sys2Proof.Machine
end

