-- ==== Sys2Proof/Machine/Fabric.lean ====
section
/-!
DEFINITION. Sys2Proof/Machine/Fabric.lean: requests and acknowledgements in the fabric, link deaths, external messages, port
failures, bring-up and temperature (R323 to R325, R328 of spec/22_fabric_and_host.md), and writes performed at their home (R248,
R278).
-/
namespace Sys2Proof.Machine

/-! ### Accepted writes -/

/-- CELLAR_UPDATE (R248, R269): the accepted write at position `index` is performed at its home, if its order allows. -/
def execCellarUpdate (index : Nat) (s : State) : Out :=
  .next (match s.dev.writes[index]? with
    | none => s
    | some w => if w.mayPass s.forwarding (s.dev.writes.take index) then s.performAt index else s)

/-- Position of a request of an endpoint pair by its sequence number, among those that its source keeps (R323). -/
def Dev.requestAt (d : Dev) (source target : Nat) (seq : BitVec 16) (done : Bool) : Option Nat :=
  d.writes.findIdx? (fun w => w.source == source && w.target == target && source != target && w.seq == seq && w.done == done)

/-- The request at position `i` is performed; its source keeps it until the acknowledgement arrives (R323). -/
def State.deliver (s : State) (i : Nat) (w : Write) : State :=
  (s.mapDev (fun d => { d with writes := modAt (fun w => { w with done := true }) i d.writes })).land w

/-- FABRIC_REQUEST_ARRIVAL (R323, R324): a router drops an old version; the destination accepts the number it expects next, and
drops any other. -/
def execFabricRequestArrival (source target sequence version : Nat) (s : State) : Out :=
  let seq : BitVec 16 := BitVec.ofNat 16 sequence
  .next (if BitVec.ofNat 8 version ≠ s.dev.rver ∨ seq ≠ (s.dev.channel source target).expect then s
    else match s.dev.requestAt source target seq false with
      | none => s
      | some i => match s.dev.writes[i]? with
        | none => s
        | some w => if w.mayPass s.forwarding (s.dev.writes.take i) then s.deliver i w else s)

/-- FABRIC_ACK_ARRIVAL (R323): the source forgets an acknowledged request. -/
def execFabricAckArrival (source target sequence : Nat) (s : State) : Out :=
  .next (match s.dev.requestAt source target (BitVec.ofNat 16 sequence) true with
    | none => s
    | some i => s.mapDev (fun d => { d with writes := dropAt i d.writes }))

/-! ### Links (R324) -/

/-- Number of the link (a, b), a < b (Table 22.2). -/
def linkNumber (a b : Nat) : Nat := a * (11 - a) / 2 + (b - a - 1)

/-- Is a link alive? -/
def linkAlive (live : BitVec 15) (a b : Nat) : Bool := live.getLsbD (linkNumber (min a b) (max a b))

/-- Dies reached from those of `seen` in up to `n` rounds. -/
def reachable (live : BitVec 15) : Nat → List Nat → List Nat
  | 0, seen => seen
  | n + 1, seen =>
    reachable live n ((upTo 6).filter (fun d => seen.contains d || seen.any (fun e => e != d && linkAlive live e d)))

/-- The lowest die that is not lost. -/
def Dev.anchor (d : Dev) : Nat := ((upTo 6).find? (fun i => !d.lost.getLsbD i)).getD 0

/-- Dies that a set of live links leaves unreachable from the lowest die that is not lost (R324; log 20). -/
def Dev.unreachable (d : Dev) (live : BitVec 15) : BitVec 6 :=
  let seen := reachable live 6 [d.anchor]
  BitVec.ofNat 6 (((upTo 6).filter (fun i => !seen.contains i)).map (2 ^ ·)).sum

/-- The next die from `a` towards `b` over live links: on a shortest path, ties to the lowest intermediate die (R324); `a` itself where
there is none. -/
def nextDie (live : BitVec 15) (a b : Nat) : Nat :=
  match (upTo 6).find? (fun k => (reachable live k [b]).contains a) with
  | some (k + 1) => ((upTo 6).find? (fun n => n != a && linkAlive live a n && (reachable live k [b]).contains n)).getD a
  | _ => a

/-- The next tables for a set of live links (R324). -/
def routesOf (live : BitVec 15) : List Nat := (upTo 36).map (fun i => nextDie live (i / 6) (i % 6))

/-- Write LIVE, FAILS and RVER into every die block (Table 22.2). -/
def State.publishLinks (s : State) : State :=
  let v := s.dev.rver.toNat + 2 ^ 8 * s.dev.live.toNat + 2 ^ 32 * s.dev.fails.toNat
  (upTo 6).foldl (fun s d => s.hearthWrite d 8 8 v) s

/-- The switch of R324: RVER advances, and every unacknowledged request is replayed under it. -/
def State.switch (s : State) : State :=
  (s.mapDev (fun d => { d with rver := d.rver + 1, writes := d.writes.map (fun w => { w with version := d.rver + 1 }) })).publishLinks

/-- Has the task a group on a die, or one dealt to it (R324, R328)? -/
def State.taskOn (s : State) (p : Packet) (die : Nat) : Bool :=
  p.waiting.any (fun w => w.2 / 512 == die) || s.allHarts.any (fun h => h.ofTask p.id && dieOfHart h.id == die)

/-- Kill every task with a group on a die (R324, R328). -/
def State.killOn (s : State) (die : Nat) (cause : BitVec 8) : State :=
  (s.dev.packets.filter (fun p => p.type == 1 && s.taskOn p die)).foldl (fun s p => s.killTask p.id cause 0) s

/-- LINK_DEATH (R324). -/
def execLinkDeath (a b : Nat) (s : State) : Out :=
  .next (if !(decide (a < b) && decide (b < 6)) || !linkAlive s.dev.live a b then s
    else
      let live := s.dev.live &&& ~~~ (BitVec.ofNat 15 (2 ^ linkNumber a b))
      let gone := s.dev.unreachable live
      let s1 := (s.mapDev (fun d => { d with live := live, fails := d.fails + 1, lost := d.lost ||| gone, routes := routesOf live })).switch
      ((upTo 6).filter (fun d => gone.getLsbD d && !s.dev.lost.getLsbD d)).foldl (fun s d => s.killOn d 0x0B) s1)

/-! ### External agents (R325) -/

/-- The cells of a list of bytes. -/
def cellsFrom (k : Nat) : List Byte → List Host.Cell
  | [] => []
  | b :: bs => (k, b) :: cellsFrom (k + 1) bs

/-- Does a device location exist (R237)? -/
def locationOk (die off n : Nat) : Bool := die < 6 && off + n ≤ 2 ^ 37

/-- Is an offset one of the parts of a Hearth window that its Hearth alone writes, which no mapping gives W (R311; log 44)? -/
def hearthOnly (off : Nat) : Bool :=
  decide (windowBase ≤ off) && ((off - windowBase) / 65536 == 0 || decide (6 ≤ (off - windowBase) / 65536))

/-- A write of an external agent is performed at its home (R325): to the memory of a die that is not lost, the parts of the window that no
mapping gives W left out. -/
def State.externalWrite (s : State) (die off : Nat) (bytes : List Byte) : State :=
  if s.dev.lost.getLsbD die then s
  else
    let cs := (cellsFrom (devKey die off) bytes).filter (fun c => !hearthOnly (c.1 % 2 ^ 37))
    (s.beforeCells .outside cs).perform .outside cs

/-- May the flight at position `i` be delivered: on a ROD flow behind every earlier one of the flow (R325)? -/
def Dev.mayDeliver (d : Dev) (i : Nat) (f : Flight) : Bool := !(f.rod && (d.flights.take i).any (fun g => g.flow == f.flow && g.rod))

/-- UET_MESSAGE (R325): a write is performed once, at its home; a read is answered with the bytes at their homes, and
not where they hold an uncorrectable error (R296); a write that is sent stays in
flight until it is delivered. Memory that the device does not have (R237) is a fault of the model's (Table of Fault). -/
def execUetMessage (message : UetMessage) (s : State) : Out :=
  match message with
  | .write die off bytes =>
    if !locationOk die off bytes.length then .fault (.noSuchLocation die off)
    else .next (if s.dev.ports = 0 then s else s.externalWrite die off bytes)
  | .read die off n =>
    if !locationOk die off n then .fault (.noSuchLocation die off)
    else .next (if s.dev.ports = 0 ∨ s.dev.lost.getLsbD die then s
      else if s.poisoned (devKey die off) n then s.logError die .abort (devKey die off) die 0
      else s.mapDev (fun d => { d with replies := d.replies ++ [(d.steps, (upTo n).map (fun i => s.mem.read (devKey die off + i)))] }))
  | .send flow rod port die off bytes =>
    if !locationOk die off bytes.length then .fault (.noSuchLocation die off)
    else .next (if !s.dev.ports.getLsbD port then s
      else s.mapDev (fun d => { d with flights := d.flights ++
        [{ flow := flow, rod := rod, port := port, die := die, off := off, bytes := bytes }] }))
  | .deliver index =>
    .next (match s.dev.flights[index]? with
      | none => s
      | some f =>
        if s.dev.ports.getLsbD f.port ∧ s.dev.mayDeliver index f then
          (s.mapDev (fun d => { d with flights := dropAt index d.flights })).externalWrite f.die f.off f.bytes
        else s)

/-- PORT_FAILURE (R325): the port's flows move to another port by the switch of R324, which carries again what was in flight. -/
def execPortFailure (port : Nat) (s : State) : Out :=
  .next (if s.dev.ports.getLsbD port then
      let ports := s.dev.ports &&& ~~~ (BitVec.ofNat 12 (2 ^ port))
      let other := ((upTo 12).find? ports.getLsbD).getD port
      (s.mapDev (fun d => { d with ports := ports, flights := d.flights.map (fun f => if f.port = port then { f with port := other } else f) })).switch
    else s)

/-! ### Bring-up and temperature (R328) -/

/-- Publish HARVEST, the logical core table and the links of a die (Tables 22.1, 22.2, R312). -/
def State.publishDie (s : State) (die : Nat) : State :=
  let l := s.physical die
  let table := (upTo 64).map (fun i => l.getD i 0xFF)
  (s.hearthWrite die 0 8 (s.dev.harvest.getD die 0).toNat).hearthWrite die 0x40 64 (packList 8 table)

/-- Does every Hearth accept its firmware (R328; log 6)? -/
def firmwareGood : Bool := (upTo 6).all Config.firmwareVerifies

/-- BRING_UP: the stages of R328 in their order; the second verifies the firmware of every Hearth and goes no further where one is refused,
the third publishes HARVEST, the logical core tables and the links, with the fourth the ports come up. -/
def execBringUp (stage : Nat) (s : State) : Out :=
  .next (if stage ≠ s.dev.bringUp + 1 ∨ 5 < stage ∨ (stage = 2 ∧ !firmwareGood) then s
    else
      let s1 := s.mapDev (fun d => { d with bringUp := stage, ports := if stage = 4 then BitVec.allOnes 12 else d.ports })
      if stage = 3 then ((upTo 6).foldl State.publishDie s1).publishLinks else s1)

/-- THERMAL_LIMIT (R328): the arithmetic clock is lowered; CYCLE rates change and nothing else. -/
def execThermalLimit (s : State) : Out := .next (s.mapDev (fun d => { d with throttled := true }))

/-- OVERTEMP_KILL (R328): every task with a group on the die is killed with CAUSE 0, and the event is logged. -/
def execOvertempKill (die : Nat) (s : State) : Out := .next (if die < 6 then (s.killOn die 0).logError die .temperature die die 0 else s)

end Sys2Proof.Machine
end

