-- ==== Sys2Proof/Machine/Events.lean ====
section
/-!
DEFINITION. Sys2Proof/Machine/Events.lean: pre-emption (R290 to R293), abort completions (R296), walks and shootdowns (R245 to R247),
debuggers (R302), snapshots (R303) and attestation (R329).
-/
namespace Sys2Proof.Machine

/-! ### Pre-emption (R290 to R293) -/

/-- Waiting work as pre-emption resolves it (Table 19.5): a WFE completes by the event bit, a BAR is settled (R277), every other
wait is abandoned. -/
def State.resolveWait (s : State) : State :=
  match s.h.wait with
  | .wfe _ => (s.mapH (fun h => { h with event := true })).wake
  | .bar _ _ => s.settleBar
  | _ => s.mapH (fun h => { h with wait := .none })

/-- Is an entry of the pipeline's log one that pushes work? -/
def Ahead.pushes (e : Ahead) : Bool := match e.kind with | .push _ => true | _ => false

/-- What a request for a trap leaves of the hart's work (R292 step 1): the issued convoys, and, where nothing else is queued, behind them what the
pipeline has executed up to the first work that it pushed. Claims that discarded heads have made stay the hart's (log 65). Where a head had made
one, the issued convoys keep their time (`holding`). -/
def Hart.stopPushing (h : Hart) : Hart :=
  let kept := h.convoys.takeWhile (·.issued)
  let before := if kept.length = h.convoys.length ∧ h.squeue.isEmpty then h.ahead.takeWhile (fun e => !e.pushes) else []
  { h with convoys := kept, squeue := [], holding := h.claimAhead, ahead := before, front := none,
           claims := h.claims ++ (h.ahead.drop before.length).filterMap (Ahead.claimed h.ctxid) }

/-- The same, with the places in line for clusters that only a discarded strip head named (R54, R96). -/
def State.stopPushing (s : State) : State :=
  let t := s.mapH Hart.stopPushing
  if s.h.ahead.any (fun e => e.grants.isSome) then t.trimLines else t

/-- Steps 1 and 2 of R292: work that has not issued is discarded, and the issued convoys have 2,000 counts of TIME left. Causes
raised while TE = 0 are held (R290), and so they are where a BAR that waits is refused as it is settled (log 70). -/
def State.beginAsync (s : State) : State :=
  if s.h.trap.te ∧ (s.h.preempt ∨ s.h.timer) ∧ s.h.taking.isNone then
    let t := s.resolveWait
    if t.h.trap.te then t.stopPushing.mapH (fun h => { h with taking := some s.dev.time }) else t
  else s

/-- Raise PREEMPT or TIMER on the hart in hand (R286); a pending one sets the event bit (R91): once, as it is raised, so that a load or a trap entry
clears it although the cause is still held (DESIGN CHOICE, log 21). -/
def State.raisePreempt (s : State) : State :=
  if s.h.active ∧ !s.h.stopped then (s.mapH (fun h => { h with preempt := true, event := true })).beginAsync else s

/-- TIMER: the quantum of the hart's context has run out since its dispatch or its last TIMER (R286, Table 22.6; log 21). -/
def State.raiseTimer (s : State) : State :=
  let q := field (s.contextField s.h.ctxid.toNat 2) 0 32
  if s.h.active ∧ !s.h.stopped ∧ q ≠ 0 ∧ s.h.slice + 1000 * q ≤ s.dev.time then
    (s.mapH (fun h => { h with timer := true, event := true, slice := s.dev.time })).beginAsync
  else s

def execPreempt (hart : Nat) (s : State) : Out := .next (s.withHart hart State.raisePreempt)
def execTimer (hart : Nat) (s : State) : Out := .next (s.withHart hart State.raiseTimer)

/-- PREEMPT_DEADLINE (R292 step 2): an issued convoy that has not retired 2,000 counts after the request is discarded, unless it stands
before a farm claim already made. -/
def State.deadline (s : State) : State := if s.h.overdue s.dev.time then s.discardQueues else s

def execPreemptDeadline (hart : Nat) (s : State) : Out := .next (s.withHart hart State.deadline)

/-- Would the convoy at the head be refused if it retired now (R291)? -/
def State.headRefused (s : State) : Bool :=
  match s.h.convoys with
  | [] => false
  | cv :: _ => cv.issued && !s.mustWait cv
      && (match runSlots cv.words (Ctx.start (s.tablesRead cv) ((s.tablesRead cv).running cv)) with
        | .ok _ => false
        | .error _ => true)

/-- PREEMPT_TRAP_ENTRY (R292): once every issued convoy has retired or been discarded, and what stands behind them has committed, an
unsealed strip rewinds uncounted and the trap is entered, before a word at a saved EPC for which SKIP was in force: the handler's first
word takes the SKIP (DESIGN CHOICE, log 25). Of two pending causes PREEMPT is taken first (log 21). A hart that a debugger has halted is
entered too, and stays halted (DESIGN CHOICE, log 71). -/
def State.enterAsync (s : State) : State :=
  if s.h.taking.isNone ∨ !s.h.trap.te then s
  else if !((s.h.convoys.isEmpty && s.h.squeue.isEmpty && s.h.ahead.isEmpty) || (s.asyncFirst && s.headRefused && !s.h.holding)) then s
  else
    let s1 := s.discardQueues
    let s2 := if s1.h.unsealed then s1.rewind false else s1
    let cause := if s2.h.preempt then Cause.preempt else Cause.timer
    (s2.mapH (fun h => { h with preempt := false, timer := if h.preempt then h.timer else false })).enter (s2.refusal cause 0)

def execPreemptTrapEntry (hart : Nat) (s : State) : Out := .next (s.withHart hart State.enterAsync)

/-! ### Walks and shootdowns (R242, R245 to R247) -/

/-- TLB_WALK_COMPLETE (R242, R245) on the hart in hand: a walk that ends in a valid leaf enters the core's TLB of 192 entries and
its cluster's of 4,096. -/
def State.walked (s : State) (a : Word) : State := s.walkedAs s.h.ctxid a

def execTlbWalkComplete (hart : Nat) (address : Word) (s : State) : Out := .next (s.withHart hart (·.walked address))

/-- Has the slot of a die asked for something that its Hearth has yet to do: request and GO (R311)? -/
def State.goSet (s : State) (r : HearthRequest) (die w : Nat) : Bool :=
  s.dev.requests.contains r && bitAt (s.mem.dword (windowKey die (w + 16))).toNat 63

/-- Forget a request. -/
def State.dropRequest (s : State) (r : HearthRequest) : State :=
  s.mapDev (fun d => { d with requests := d.requests.filter (· != r) })

/-- Clear GO of a slot with a release at sys scope (R311). -/
def State.clearGo (s : State) (die w : Nat) : State := s.hearthChange die (w + 23) (· % 128)

/-- Does a Hearth's slot that has been asked for something hold an uncorrectable error (R296)? -/
def State.slotBad (s : State) (r : HearthRequest) (die w : Nat) : Bool := s.dev.requests.contains r && s.poisoned (windowKey die w) 24

/-- SHOOTDOWN_REQUEST (R247): the Hearth takes the operands of its slot; a slot that holds an error asks for nothing (log 69). -/
def execShootdownRequest (die : Nat) (s : State) : Out :=
  .next (if !s.hearthsUp then s
    else if s.slotBad (.shootdown die) die 0x10000 then (s.logWindow die 0x10000).dropRequest (.shootdown die)
    else if s.goSet (.shootdown die) die 0x10000 then
      let w := fun i => s.mem.dword (windowKey die (0x10000 + 8 * i))
      (s.dropRequest (.shootdown die)).mapDev (fun d => { d with shootdowns := d.shootdowns ++
        [{ die := die, ctxid := (w 2).truncate 16, va := (w 0).toNat, length := (w 1).toNat }] })
    else s.dropRequest (.shootdown die))

/-- Does an entry fall under a shootdown? -/
def Shootdown.covers (x : Shootdown) (t : TlbEntry) : Bool :=
  t.ctxid == x.ctxid && t.va < x.va + x.length && x.va < t.va + t.size

/-- A core without the translations that fall under a shootdown, and without the words fetched through them. -/
def Core.dropTlb (x : Shootdown) (k : Core) : Core :=
  { k with tlb := k.tlb.filter (fun t => !x.covers t),
           icache := k.icache.filter (fun e => !(e.ctxid == x.ctxid && e.page < x.va + x.length && x.va < e.page + e.size)) }

/-- Every TLB drops the entries that fall under a shootdown. -/
def State.dropTlb (s : State) (x : Shootdown) : State :=
  { s.mapDev (fun d => { d with tlb2 := d.tlb2.filter (fun p => !x.covers p.2) }) with
      core := s.core.dropTlb x, cores := s.cores.map (Core.dropTlb x) }

/-- The TLB entries of the device that fall under a shootdown. -/
def State.fallen (s : State) (x : Shootdown) : List TlbEntry :=
  ((s.core :: s.cores).flatMap (·.tlb) ++ s.dev.tlb2.map (·.2)).filter x.covers

/-- Do `n` bytes at an address lie under a shootdown: in a page of 64 KiB, the smallest, that its range overlaps, or in the page of an entry
that falls under it (R247)? -/
def State.shot (s : State) (x : Shootdown) (a n : Nat) : Bool :=
  (a / 65536 * 65536 < x.va + x.length && x.va < (a + n - 1) / 65536 * 65536 + 65536)
    || (s.fallen x).any (fun t => t.va < a + n && a < t.va + t.size)

/-- The running streams of the hart in hand translate their pages under a shootdown again, those of finished elements and between elements too;
one that is refused fails (R225, R247). `old` is the machine before the TLBs dropped the entries. -/
def State.retranslate (s old : State) (x : Shootdown) : State :=
  (upTo 16).foldl (fun s n =>
    match s.h.stream n with
    | none => s
    | some q => match q.access with
      | none => s
      | some a =>
        if !q.running || q.ctxid != x.ctxid then s
        else
          let pick := fun (p : Nat) => old.shot x (65536 * p) 65536
          let t := s.enteredSome q pick
          match s.pageDenial q a pick with
          | none => t
          | some d => t.failStream n q (statusOf d)) s

/-- Does a buffered store go to an address under a shootdown? -/
def State.meets (s : State) (x : Shootdown) (st : Store) : Bool := st.ctxid == x.ctxid && s.shot x st.va.toNat st.cells.length

/-- The stores that the hart's pipeline holds ahead of unfinished work (R93). -/
def Hart.heldStores (h : Hart) : List Store := match h.front with | some f => f.held | none => []

/-- Does a convoy of hart `h` translate: has it a word of the HASH unit that names a table, or one that accesses device memory? -/
def Hart.translates (h : Hart) (c : Convoy) : Bool := c.words.any (fun i => readsTable i || (h.space == 0 && (memForm i).isSome))

/-- Has a hart work that translated under the shootdown and is not done: a store that a strip buffers or the pipeline holds, or an issued convoy
of the context that translates (R247)? -/
def State.heldUp (s : State) (x : Shootdown) (h : Hart) : Bool :=
  (h.closed ++ h.ssb ++ h.heldStores).any (s.meets x) || (h.ctxid == x.ctxid && h.convoys.any (fun c => c.issued && h.translates c))

/-- Can a shootdown of a die not be completed yet (R247)? -/
def State.shootdownWaits (s : State) (x : Shootdown) : Bool := s.allHarts.any (s.heldUp x)

/-- Is an accepted write one that a hart made in a context? -/
def Write.ofContext (c : BitVec 16) (w : Write) : Bool := w.agent.hart.isSome && w.ctxid == c

/-- SHOOTDOWN_COMPLETE (R247): no sooner than every hart is done with what it translated; what harts have had accepted in the context is
performed. -/
def execShootdownComplete (die : Nat) (s : State) : Out :=
  .next (match s.dev.shootdowns.find? (·.die == die) with
    | none => s
    | some x =>
      if s.shootdownWaits x then s else
      let s0 := s.drainWhere (Write.ofContext x.ctxid)
      let s1 := (s0.dropTlb x).mapDev (fun d => { d with shootdowns := d.shootdowns.filter (·.die != die) })
      let s2 := (s1.allHarts.map (·.id)).foldl (fun s i => s.withHart i (·.retranslate s0 x)) s1
      s2.clearGo die 0x10000)

/-! ### Debuggers and snapshots (R302, R303) -/

/-- DEBUGGER_ATTACH (R302, Table 22.6): STATUS.DBGA of the context's harts follows the context table, at a detachment too. -/
def execDebuggerAttach (ctxid : Nat) (s : State) : Out :=
  let on := bitAt (s.contextField ctxid 2).toNat 38
  .next (if !s.hearthsUp then s else (s.dropRequest (.contexts ctxid)).mapHarts (fun h =>
    if h.active ∧ h.ctxid.toNat = ctxid then { h with trap := { h.trap with dbga := on } } else h))

/-- DEBUG_RESUME (R302): a halted hart goes on where it stands. -/
def execDebugResume (hart : Nat) (s : State) : Out := .next (s.onHart hart (fun h => { h with halted := false }))

/-- Write what a die's blocks latched: 640 KiB of records, of which the spec gives no layout (Table 22.1; log 6). -/
def State.latchRecords (s : State) (die : Nat) : State :=
  let n := s.dev.steps
  (upTo 81920).foldl (fun s i => s.hearthWrite die (0x60000 + 8 * i) 8 (Config.snapshotWord n (81920 * die + i)).toNat) s

/-- SNAPSHOT_LATCH (R303): at the stamp T every block latches, and each die's slot records T and HELD. -/
def execSnapshotLatch (s : State) : Out :=
  .next (match s.dev.snapshot with
    | none => s
    | some t =>
      if s.dev.time < t then s
      else
        let s1 := s.mapDev (fun d => { d with snapshot := none, snapHeld := true })
        (upTo 6).foldl (fun s d => ((s.latchRecords d).hearthWrite d 0x10088 8 t).hearthWrite d 0x10087 1 0x80) s1)

/-- Has system software released the snapshot at a die (R303, Table 22.1)? Not by a byte that holds an error (log 69). -/
def State.released (s : State) (die : Nat) : Bool :=
  s.dev.requests.contains (.snapshot die) && !s.poisoned (windowKey die 0x10087) 1 && !bitAt (s.mem.read (windowKey die 0x10087)).toNat 7

/-- SNAPSHOT_RELEASE (R303): system software has written HELD := 0 in some die's slot; every slot follows. -/
def execSnapshotRelease (s : State) : Out :=
  .next (if s.hearthsUp ∧ s.dev.snapHeld ∧ (upTo 6).any s.released then
      let s1 := (upTo 6).foldl (fun s d => (s.dropRequest (.snapshot d)).hearthWrite d 0x10087 1 0) s
      s1.mapDev (fun d => { d with snapHeld := false })
    else s)

/-! ### Attestation (R328, R329) -/

/-- The report of Table 22.11 for a nonce: 8,192 bytes. -/
def State.report (s : State) (nonce : List Byte) : List Byte :=
  let body := nonce ++ (upTo 64).map Config.firmwareDigest ++ (upTo 64).map Config.kernelDigest
    ++ (upTo 6).flatMap (fun d => (upTo 8).map (fun i => BitVec.ofNat 8 ((s.dev.harvest.getD d 0).toNat / 2 ^ (8 * i))))
    ++ (upTo 2592).map Config.publicKey
  body ++ (upTo 4627).map (Config.signatureByte body) ++ List.replicate 733 0

/-- Write the report and its outcome: STATUS 0, or 1 when an address is refused. An abort completion of the read of NONCE, or of a walk, is logged, and
ends as a refusal does: STATUS 1, and no report (DESIGN CHOICE, log 69: R329 lists no such case). -/
def State.attest (s : State) : State :=
  let w := fun i => s.mem.dword (windowKey 0 (0x10040 + 8 * i))
  let c := field (w 2) 0 16
  let nonce := w 0
  let rep := w 1
  let status := fun (s : State) (v : Nat) => s.hearthWrite 0 (0x10040 + 24) 1 v
  let denied := fun (s : State) (d : Denial × Word) => status (if d.1 = .abort then s.logDenied 0 c .abort 0 d else s) 1
  if nonce.toNat % 64 ≠ 0 ∨ rep.toNat % 64 ≠ 0 then status s 1
  else match (s.hearthFault 0 c .load nonce 64).orElse (fun _ => s.hearthFault 0 c .store rep 8192) with
    | some d => denied s d
    | none =>
      let s := s.hearthAsked 0 c nonce 64
      match s.hearthRead 0 c nonce 64 with
      | .error d => denied s d
      | .ok v =>
        let bytes := s.report ((upTo 64).map (fun i => BitVec.ofNat 8 (v / 2 ^ (8 * i))))
        match s.hearthStore 0 c rep 8192 (packList 8 (bytes.map (·.toNat))) with
        | .error d => denied s d
        | .ok t => status t 0

/-- ATTESTATION_REQUEST (R329); a slot that holds an error asks for nothing (log 69). -/
def execAttestationRequest (die : Nat) (s : State) : Out :=
  .next (if !s.hearthsUp then s
    else if s.slotBad (.attestation die) die 0x10040 then (s.logWindow die 0x10040).dropRequest (.attestation die)
    else if s.goSet (.attestation die) die 0x10040 then
      let s1 := if die = 0 then s.attest else s.hearthWrite die (0x10040 + 24) 1 2
      (s1.dropRequest (.attestation die)).clearGo die 0x10040
    else s.dropRequest (.attestation die))

end Sys2Proof.Machine
end

