-- ==== Sys2Proof/Machine/Schedule.lean ====
section
/-!
DEFINITION. Sys2Proof/Machine/Schedule.lean: fetching (R14 to R16, R83, R92, Table 2.6), what a hart does next, and what goes on beside the
harts (log 1). Machine/Step.lean calls it.
-/
namespace Sys2Proof.Machine

/-! ### Time -/

/-- The hart in hand discards what it has queued once the 2,000 counts of a request for a trap have passed (R292). -/
def State.expire (s : State) : State :=
  (s.allHarts.filter (fun h => !h.convoys.isEmpty && h.overdue s.dev.time)).foldl (fun s h => s.withHart h.id State.discardQueues) s

/-- The counters of one step (R74): TIME, the CYCLE of every core, the number of steps (log 7); and what ends as time passes. -/
def State.tick (s : State) : State :=
  let n := s.dev.steps
  (s.mapDev (fun d => { d with cycle := d.cycle + Config.stepClocks d.throttled n, time := d.time + Config.stepNanoseconds n,
                               steps := n + 1 })).expire

/-! ### Fetching -/

/-- The word that the core's instruction cache serves the hart in hand at an address, if any (R2, R92). -/
def State.cachedWord (s : State) (a : Word) : Option Word32 :=
  (s.core.icache.find? (fun e => e.ctxid == s.h.ctxid && e.va == a && e.harts.getLsbD (s.h.id % 4))).map (·.word)

/-- The word at an address, through translation: from the instruction cache, or from memory. -/
def State.fetchWord (s : State) (a : Word) : Except Denial Word32 :=
  if localBase ≤ a.toNat then .error .perm
  else match s.translate .fetch a with
    | .error d => .error d
    | .ok p => match s.cachedWord a with
      | some w => .ok w
      | none => if s.aborts p.key 4 then .error .abort else .ok (BitVec.ofNat 32 (readLE s.mem.read p.key 4))

/-- The bytes of `n` words from `a`, or the address of the first word that is refused. -/
def State.fetchWords (s : State) (a : Word) : Nat → Except (Denial × Word) (List Byte)
  | 0 => .ok []
  | n + 1 => match s.fetchWord a with
    | .error d => .error (d, a)
    | .ok w => match s.fetchWords (a + 4) n with
      | .error e => .error e
      | .ok bs => .ok (bytesOf 4 w.toNat ++ bs)

/-- Words of the vector part of what a first word begins: those of a convoy whose header passes steps 3 and 4 of Table 2.6. -/
def vectorWords (w : Word32) : Nat :=
  match decodeWord w with
  | .convoy h _ => if h.ok then 2 * h.count else 0
  | _ => 0

/-- Is a word a convoy header (R14)? -/
def isHeader (w : Word32) : Bool := w.toNat / 2 ^ 28 == 15

/-- What the fetch at the PC gives. -/
inductive Fetched where
  | instr (i : Instr)
  | refused (t : TrapInfo) (d : Denial)
  | trap (t : TrapInfo)
  deriving DecidableEq, Repr

/-- Fetch and decode what stands at the PC, with the refusals of steps 1, 2 and 5 of Table 2.6 and of R83; of a vector word EVAL names the
lower half (R29). A PC that is no multiple of 4 is refused too (R14; log 22). -/
def State.fetch (s : State) : Fetched :=
  let pc := s.h.pc
  if pc.toNat % 4 ≠ 0 then .trap (s.refusal .align pc)
  else match s.fetchWord pc with
    | .error d => .refused (s.refusal .page pc) d
    | .ok w =>
      if isHeader w ∧ pc.toNat % 8 ≠ 4 then .trap (s.refusal .align pc)
      else match s.fetchWords (pc + 4) (vectorWords w) with
        | .error (d, a) => .refused (s.refusal .page (vectorWordAt pc ((a - pc - 4).toNat / 8))) d
        | .ok bs => match decode (bytesOf 4 w.toNat ++ bs) with
          | some (i, _) => .instr i
          | none => .trap (s.refusal .ill pc)

/-- Bytes that an instruction takes up. -/
def byteLength : Instr → Nat
  | .convoy _ ws => 4 + 8 * ws.length
  | _ => 4

/-- The fetch of a word from memory is a request of its own where it crosses to another die (R323; log 45). -/
def State.fetched (s : State) (a : Word) : State :=
  match s.translate .fetch a with
  | .error _ => s
  | .ok p =>
    if (s.cachedWord a).isSome then s
    else s.asked (walkerOf (dieOfHart s.h.id)) (dieOfHart s.h.id) [targetDie p.key]

/-- What the fetch of words from a first to a last leaves: the entries of their translations (R245), and the requests. -/
def State.enteredSpan (s : State) (a b : Word) : State :=
  let t := (s.enteredAll [a, b]).fetched a
  if a = b then t else t.fetched b

/-- What the fetch of an instruction at `pc` leaves, and of one at the PC. -/
def State.enteredWords (s : State) (pc : Word) (i : Instr) : State := s.enteredSpan pc (pc + BitVec.ofNat 64 (byteLength i - 4))
def State.enteredFetch (s : State) (i : Instr) : State := s.enteredWords s.h.pc i

/-- The last address that the fetch at the PC translates, if it translates any. -/
def State.lastFetched (s : State) : Option Word :=
  let pc := s.h.pc
  if pc.toNat % 4 ≠ 0 ∨ localBase ≤ pc.toNat then none
  else match s.fetchWord pc with
    | .error _ => some pc
    | .ok w =>
      if isHeader w ∧ pc.toNat % 8 ≠ 4 then some pc
      else match s.fetchWords (pc + 4) (vectorWords w) with
        | .error (_, a) => some a
        | .ok _ => some (pc + BitVec.ofNat 64 (4 * vectorWords w))

/-- What a fetch at the PC leaves that is refused or gives no instruction (R245). -/
def State.enteredRefused (s : State) : State := match s.lastFetched with | some a => s.enteredSpan s.h.pc a | none => s

/-- A word enters the instruction cache of 64 KiB, from where each hart of the core may be served (R2); it was fetched through a page of `size`
bytes. -/
def Core.cache (c : BitVec 16) (a : Word) (size : Nat) (w : Word32) (k : Core) : Core :=
  { k with icache := ({ ctxid := c, va := a, page := a.toNat / size * size, size := size, word := w, harts := 0xF }
      :: k.icache.filter (fun e => !(e.ctxid == c && e.va == a))).take 16384 }

/-- A word is fetched ahead of its turn (R92): it enters the instruction cache, unless that serves the hart already. -/
def State.prefetch (s : State) (a : Word) : State :=
  if (s.cachedWord a).isSome then s
  else match s.fetchWord a, s.leafFor s.h.ctxid a with
    | .ok w, .ok (_, size) => ((s.entered a).fetched a).mapCore (Core.cache s.h.ctxid a size w)
    | _, _ => s.entered a

/-! ### Scalar accesses -/

/-- Kind, address and size of the access that a scalar load, store or atomic makes in a state (R82, R88). -/
def scalarAccess (s : State) : Instr → Option (Access × Word × Nat)
  | .ldb _ xa off => some (.load, s.h.rx xa + offMem off, 1)
  | .ldh _ xa off => some (.load, s.h.rx xa + offMem off, 2)
  | .ldw _ xa off => some (.load, s.h.rx xa + offMem off, 4)
  | .ldd _ xa off => some (.load, s.h.rx xa + offMem off, 8)
  | .ldbu _ xa off => some (.load, s.h.rx xa + offMem off, 1)
  | .ldhu _ xa off => some (.load, s.h.rx xa + offMem off, 2)
  | .ldwu _ xa off => some (.load, s.h.rx xa + offMem off, 4)
  | .stb _ xa off => some (.store, s.h.rx xa + offMem off, 1)
  | .sth _ xa off => some (.store, s.h.rx xa + offMem off, 2)
  | .stw _ xa off => some (.store, s.h.rx xa + offMem off, 4)
  | .std _ xa off => some (.store, s.h.rx xa + offMem off, 8)
  | .amoswap _ xa _ z _ _ => some (.atomic, s.h.rx xa, amoBytes z)
  | .amoadd _ xa _ z _ _ => some (.atomic, s.h.rx xa, amoBytes z)
  | .amoand _ xa _ z _ _ => some (.atomic, s.h.rx xa, amoBytes z)
  | .amoor _ xa _ z _ _ => some (.atomic, s.h.rx xa, amoBytes z)
  | .amoxor _ xa _ z _ _ => some (.atomic, s.h.rx xa, amoBytes z)
  | .amomin _ xa _ z _ _ => some (.atomic, s.h.rx xa, amoBytes z)
  | .amomax _ xa _ z _ _ => some (.atomic, s.h.rx xa, amoBytes z)
  | .amominu _ xa _ z _ _ => some (.atomic, s.h.rx xa, amoBytes z)
  | .amomaxu _ xa _ z _ _ => some (.atomic, s.h.rx xa, amoBytes z)
  | .amocas _ xa _ z _ _ => some (.atomic, s.h.rx xa, amoBytes z)
  | _ => none

/-- Destination of a scalar load, and whether it extends the sign (R82). -/
def loadForm : Instr → Option (XReg × Bool)
  | .ldb xd _ _ | .ldh xd _ _ | .ldw xd _ _ | .ldd xd _ _ => some (xd, true)
  | .ldbu xd _ _ | .ldhu xd _ _ | .ldwu xd _ _ => some (xd, false)
  | _ => none

/-- Source of a scalar store. -/
def storeForm : Instr → Option XReg
  | .stb xs _ _ | .sth xs _ _ | .stw xs _ _ | .std xs _ _ => some xs
  | _ => none

/-- The descriptor from which a strip head is to make a claim of its own: none where no farm level is open at the current depth, and for a
claim put back or a remainder (R160). -/
def Hart.claimFrom (h : Hart) : Option Word :=
  match h.loops.stripLevel with
  | some (_, l) => if l.farm && !h.loops.replay && l.lcnt == 0 then some (h.rx l.xreg) else none
  | none => none

/-- The addresses at which the data accesses of the word at the PC read (R82, R88, R91, R160, R234, R276), and whether the word has sealed
a strip before. -/
def State.dataReads (s : State) (i : Instr) : List Word × Bool :=
  match i with
  | .wfe xa => ([lineOf (s.h.rx xa)], false)
  | .bar xa _ => ([s.h.rx xa], true)
  | .qrest q => ([s.h.rx q.xa], true)
  | .vsetvl _ _ _ | .vsetvli _ _ _ _ _ _ =>
    (match s.h.claimFrom with
      | some d => if (s.h.keptClaim d).isNone then ([d, d + 8], false) else ([], false)
      | none => ([], false))
  | _ => match scalarAccess s i with
    | some (.store, _, _) => ([], false)
    | some (a, va, _) => ([va], a == .atomic)
    | none => ([], false)

/-! ### The pipeline ahead of unfinished work (R61, R93, R94; log 10) -/

/-- The X registers that a word reads or writes in the scalar pipeline; none for a word that waits until all earlier work has ended:
those of R95 and the other WY words, LEXIT, QWAIT, QCLOSE, and a word that is no instruction. -/
def pipeRegs : Instr → Option (List XReg)
  | .add a b c | .sub a b c | .and a b c | .or a b c | .xor a b c | .sll a b c | .srl a b c | .sra a b c | .slt a b c
  | .sltu a b c | .min a b c | .max a b c | .minu a b c | .maxu a b c | .andn a b c | .mul a b c | .mulh a b c | .mulhu a b c
  | .div a b c | .divu a b c | .rem a b c | .remu a b c | .bextv a b c | .vsetvl a b c => some [a, b, c]
  | .fshl a b c _ | .fshr a b c _ => some [a, b, c]
  | .clz a b | .ctz a b | .popc a b => some [a, b]
  | .addi a b _ | .andi a b _ | .ori a b _ | .xori a b _ | .slti a b _ | .sltiu a b _ => some [a, b]
  | .slli a b _ | .srli a b _ | .srai a b _ => some [a, b]
  | .ldb a b _ | .ldh a b _ | .ldw a b _ | .ldd a b _ | .ldbu a b _ | .ldhu a b _ | .ldwu a b _ | .stb a b _ | .sth a b _
  | .stw a b _ | .std a b _ | .beq a b _ | .bne a b _ | .blt a b _ | .bge a b _ | .bltu a b _ | .bgeu a b _ => some [a, b]
  | .bext a b _ _ | .bextu a b _ _ | .bins a b _ _ => some [a, b]
  | .jalr a b _ => some [a, b]
  | .vsetvli a b _ _ _ _ => some [a, b]
  | .jal a _ | .lui a _ | .addpc a _ => some [a]
  | .loop a _ _ _ => some [a]
  | .loops a _ _ _ _ => some [a]
  | .lbrk _ _ => some []
  | .lpop _ => some []
  | .convoy _ _ => some []
  | i => if (startOf i).isSome then some [] else none

/-- The X register that a word writes when the work that it names has been done (R132, R210, R232). -/
def lateReg : Instr → Option XReg
  | .vmvxs v | .kpopc v | .kfirst v | .flget v | .pclaim v => some v.xs
  | .qavail q | .tstat q => some q.xa
  | _ => none

/-- The vector words of a convoy (R94), or the word itself. -/
def pushedWords : Instr → List Instr
  | .convoy h ws => match vecInstrs 0 h.units ws with
    | .ok is => is
    | .error _ => []
  | i => [i]

/-- The words of the work of a hart that is not finished: queued, or in the log of its pipeline. -/
def Hart.pending (h : Hart) : List Instr :=
  h.convoys.flatMap (·.words) ++ h.squeue.map (·.word) ++ (h.ahead.filter (·.pushes)).flatMap (fun e => pushedWords e.word)

/-- Must the word `i`, which reads or writes the registers `rs`, wait for an X register that unfinished work writes (R94)? The strip level's
register is read at the back edge, also at that of the word, and by a claim. -/
def Hart.waitsFor (h : Hart) (l : Loops) (i : Instr) (rs : List XReg) : Bool :=
  let late := ((h.pending ++ pushedWords i).filterMap lateReg).filter (· != 0)
  let strip := fun (l : Loops) => match l.stripLevel with | some (_, v) => [v.xreg] | none => []
  (rs ++ strip l ++ strip h.loops).any late.contains

/-- The machine as the hart's pipeline sees it, ahead of its unfinished work. -/
def State.frontState (s : State) : State :=
  let t := s.mapH (fun h => { h with convoys := [], squeue := [], ahead := [], front := none, ssb := [], closed := [], skipping := false })
  match s.h.front with
  | some f => t.mapH (fun h => { h with
      pc := f.pc, x := f.x, vl := f.vl, vt := f.vt, vlcap := f.vlcap, grant := f.grant, pmodeNow := f.pmodeNow, loops := f.loops,
      xstrip := f.xstrip })
  | none => match s.h.convoys with
    | cv :: _ => t.advanceTo cv.next
    | [] => t.advance

/-- The pipeline has executed the word at `pc`; `t` is what it sees after it, `held` what it holds. -/
def State.wentAhead (s : State) (pc : Word) (i : Instr) (k : AheadKind) (held : List Store) (t : State) : State :=
  (s.enteredWords pc i).mapH (fun h => { h with
    ahead := h.ahead ++ [{ pc := pc, word := i, kind := k }],
    front := some { pc := t.h.pc, x := t.h.x, vl := t.h.vl, vt := t.h.vt, vlcap := t.h.vlcap, grant := t.h.grant,
                    pmodeNow := t.h.pmodeNow, loops := t.h.loops, xstrip := t.h.xstrip, held := held } })

/-- Has a word trapped? -/
def State.trappedIn (t u : State) : Bool := u.h.trap != t.h.trap || u.h.halted != t.h.halted || u.h.stopped != t.h.stopped

/-- A convoy, or a stream or tile instruction, is pushed (R93); each queue holds 16. One whose stage is gated off has no effect (R151). -/
def State.pushAhead (s t : State) (i : Instr) : State :=
  let held := s.h.heldStores
  let later := (s.h.ahead.filter (·.pushes)).map (·.word)
  match i with
  | .convoy h ws =>
    if 16 ≤ s.h.convoys.length + (later.filter (fun w => (startOf w).isNone)).length then s
    else match execConvoy h ws t with
      | .next u =>
        if t.trappedIn u then s
        else match u.h.convoys with
          | cv :: _ => s.wentAhead t.h.pc i (.push s.dev.steps) held (t.advanceTo cv.next)
          | [] => s.wentAhead t.h.pc i .plain held u
      | _ => s
  | _ =>
    if 16 ≤ s.h.squeue.length + (later.filter (fun w => (startOf w).isSome)).length then s
    else s.wentAhead t.h.pc i (.push s.dev.steps) held t.advance

/-- X[xd], AVL and VT of a strip head or another VSETVL (R61). -/
def headForm (h : Hart) : Instr → Option (XReg × Word × Word)
  | .vsetvl xd xa xb => some (xd, h.rx xa, h.rx xb)
  | .vsetvli xd xa sew fmt blk rm => some (xd, h.rx xa, vsetvliVt sew fmt blk rm)
  | _ => none

/-- Stores that have not left the hart, in program order: of closed strips, of the open one, of the pipeline. -/
def Hart.unsentStores (h : Hart) : List Store := h.closed ++ h.ssb ++ h.heldStores

/-- The key of the number that a strip head, executed in `t`, is to add to for a claim of its own, if it is to make one (R160). -/
def State.claimKey (t : State) : Option Nat :=
  match t.h.claimFrom with
  | none => none
  | some d => if (t.h.keptClaim d).isSome then none else match t.scalarPlace .atomic d with
    | .ok p => some p.key
    | .error _ => none

/-- The hart's stores to the number at key `k` have been performed with a claim: none of them leaves the hart again (R269). -/
def Hart.letGo (k : Nat) (h : Hart) : Hart :=
  let drop := fun (l : List Store) => l.filter (fun st => !st.counts k)
  { h with closed := drop h.closed, ssb := drop h.ssb,
           front := h.front.map (fun f => { f with held := f.held.map (fun st => if st.counts k then { st with cells := [] } else st) }) }

/-- What the pipeline sees at a strip head: a claim that the hart still has from a number which it has stored to since is its no longer. -/
def State.headState (s t : State) : State :=
  t.mapH (fun h => s.h.unsentStores.foldl (fun h st => if st.vector then h else h.renumber st.ctxid st.va) h)

/-- A VSETVL waits for no earlier convoy and for no cluster (R61, R160): the hart takes its places in line, and a claim is made, at once;
GRANT, VT, VLCAP, VL and the strip take their place in program order. -/
def State.headAhead (s t : State) (i : Instr) : State :=
  match headForm t.h i with
  | none => s
  | some (xd, avl, vt) =>
    if !vtConsistent vt then s
    else
      let t := s.headState t
      let t0 := t.mapCore (Core.keepLines (t.h.id % 4) t.h.usedClusters)
      match (t0.closeAtHead.regrant.setVt (vt.truncate 11)).headClaim s.h.unsentStores with
      | .error _ => s
      | .ok (u, claim) =>
        let h := match t.claimKey with | some k => s.h.letGo k | none => s.h
        let s1 := ({ u with h := { h with event := u.h.event, claims := u.h.claims } } : State).keepPlaces s.core
        s1.wentAhead t.h.pc i (.head u.h.grant claim t.h.claimFrom) s1.h.heldStores (u.headFinish t xd avl claim)

/-- A scalar load reads memory before earlier convoys retire (R93, R97), unless it needs bytes of a store that the pipeline holds. -/
def State.loadAhead (s t : State) (i : Instr) (xd : XReg) (signed : Bool) (va : Word) (n : Nat) : State :=
  match t.scalarCheck .load bpRead va n with
  | .error _ => s
  | .ok p =>
    if s.h.heldStores.any (fun st => st.cells.any (fun c => p.key ≤ c.1 && c.1 < p.key + n)) then s
    else
      let v := loadValue n signed (s.readN false p.key n)
      (((s.enteredScalar va).afterRead (.scalar s.h.id) p.key n).arm p.key).wentAhead t.h.pc i (.load xd v) s.h.heldStores
        (t.setX xd v).advance

/-- A scalar store is held until the work before it is done (R93). -/
def State.storeAhead (s t : State) (i : Instr) (va : Word) (n : Nat) (v : Word) : State :=
  match t.scalarCheck .store bpWrite va n with
  | .error _ => s
  | .ok p => (s.enteredScalar va).wentAhead t.h.pc i .store (s.h.heldStores ++ [scalarStoreOf t.h.ctxid va p n v]) t.advance

/-- The word that the hart's pipeline can execute next ahead of its unfinished work, if any, with the machine as the pipeline sees it. A word that
would trap, or that a breakpoint matches, waits for its place. -/
def State.nextAhead (s : State) : Option (State × Instr) :=
  let h := s.h
  let begun := match h.front with | some _ => true | none => h.convoys.length + h.squeue.length == 1
  if !h.active || h.stopped || h.halted || h.taking.isSome || h.wait != .none || (h.trap.te && (h.preempt || h.timer)) || !begun then none
  else
    let t := s.frontState
    if t.h.pc = exitPc ∨ (t.h.bpFind [0] t.h.pc).isSome then none
    else match t.fetch with
      | .instr i => match pipeRegs i with
        | some rs => if h.waitsFor t.h.loops i rs then none else some (t, i)
        | none => none
      | _ => none

/-- What the execution of a plain word ahead of unfinished work leaves: its effect on what the pipeline sees (R93). -/
def State.tookAhead (s : State) (i : Instr) (t : State) : Out → State
  | .next u => if t.trappedIn u then s else s.wentAhead t.h.pc i .plain s.h.heldStores u
  | _ => s

/-! ### Abort completions (R296) -/

/-- Is the word a vector store, which reads nothing at its places? -/
def storesOnly : Instr → Bool
  | .vst _ | .vsts _ | .vstx _ | .vstk _ => true
  | _ => false

/-- Is a word one whose element reads end in an abort completion where the register stores hold an uncorrectable error: of the VLSU, of the
HASH unit, or packed (Table 19.7)? -/
def readsStores : Instr → Bool
  | .vpconv _ | .vpconva _ | .vpack _ | .vfext _ => true
  | i => (memForm i).isSome || readsTable i

/-- The element and lane with which the accesses of word `i` in its slot read at address `a`, if one does: elements of a vector memory
instruction other than a store, the descriptor and the lines of a HASH instruction, and, without an address, an element that it takes from
the register stores (log 61). -/
def Ctx.readsElement (c : Ctx) (i : Instr) (a : Word) (element lane : Nat) : Bool :=
  (match memForm i with
    | some f => !storesOnly i && c.cv.loaded.isNone && (c.items f.addr f.v).any (fun e =>
        let t := c.itemInfo f.addr .data a e
        c.address f.addr f.v e == a && t.eelem == element && t.elane == lane)
    | none => (c.hashAddresses i).contains a && ((element == 0 && lane == 0) || lane == c.lane element))
  || (readsStores i && a == 0 && lane == c.lane element && (match opOf i with
    | some (_, v) => (c.actives v).contains element
    | none => false))

/-- The first word of a convoy that reads so, with the context it runs in. -/
def readerOf (a : Word) (element lane : Nat) : List Instr → Ctx → Option (Instr × Ctx)
  | [], _ => none
  | i :: is, c =>
    if c.readsElement i a element lane then some (i, c)
    else match opOf i with
      | none => readerOf a element lane is { c with pos := c.pos + 1 }
      | some (op, v) => match c.runSlot op v with
        | .error _ => none
        | .ok c1 => readerOf a element lane is { c1 with pos := c1.pos + 1 }

/-- An uncorrectable error meets an access of the hart in hand: of its issued convoy, of the fetch at its PC, or of the word there. The
error log records it, and the outcome is that of Table 19.7. -/
def State.abortAccess (s : State) (a : Word) (element lane : Nat) : State :=
  let t := fun (epc : Word) => ({ cause := .data, bp := 0, epc := epc, eval := a, eelem := element, elane := lane } : TrapInfo)
  if !s.h.active ∨ s.h.stopped ∨ s.h.halted then s
  else match s.h.convoys with
    | cv :: _ =>
      if !cv.issued then s
      else match readerOf a element lane cv.words (Ctx.start s (s.running cv)) with
        | some (i, c) => s.abortConvoy i c (t cv.pc)
        | none => s
    | [] =>
      if s.h.wait ≠ .none ∨ !s.h.squeue.isEmpty ∨ !s.h.ahead.isEmpty ∨ element ≠ 0 ∨ lane ≠ 0 then s
      else match s.fetch with
        | .instr i =>
          let r := s.dataReads i
          if r.1.contains a then (if r.2 then s.seal else s).aborted (t s.h.pc)
          else if a = s.h.pc ∨ (upTo (byteLength i / 8)).any (fun j => a = vectorWordAt s.h.pc j) then s.aborted (t s.h.pc)
          else s
        | _ => s

def execAbortCompletion (hart : Nat) (address : Word) (element lane : Nat) (s : State) : Out :=
  .next (s.withHart hart (·.abortAccess address element lane))

/-! ### Beside the harts -/

/-- The state that an outcome leaves. -/
def after (s : State) : Out → State
  | .next t => t
  | _ => s

/-- The next event of the streams of the hart in hand, for handle `n` (R221, R229, R230). -/
def State.streamEvent (s : State) (n : Nat) : Option State :=
  match s.h.stream n with
  | none => none
  | some q =>
    if !q.running then none
    else if q.kind = 2 then
      let t := s.tileOf q.destCore q.destTile
      if !q.sent then some (s.sendContribution n)
      else if t.buffer.any (fun c => c.hart == s.h.id && c.handle == n) then none
      else if t.alloc && t.state == .filling && t.next + 4 ≤ q.xb.toNat && q.xb.toNat < t.expected then none
      else some (s.contribute n)
    else if q.kind = 3 then (if s.firstFold q then some (s.applyFold n) else none)
    else if q.kind = 4 ∧ s.targetOk q ∧ s.dev.ports = 0 then none
    else some (s.arrive n q.n)

/-- The next event of the hart in hand beside its instructions: a strip's stores, a matrix update, a migration pass, a stream. -/
def State.hartEvent (s : State) : Option State :=
  if !s.h.closed.isEmpty ∧ s.h.convoys.isEmpty then some s.flushClosed
  else if s.h.stopped && (match s.h.convoys with | cv :: _ => !s.mustWait cv | [] => false) then
    some s.retireConvoy
  else if !s.h.mq.isEmpty then some (s.applyUpdate 0 false)
  else if s.passReady then some (s.migrate false)
  else (upTo 16).findSome? s.streamEvent

/-- The hart `id` of those that any step has touched: its next event, seen from the hart in hand. -/
def State.hartEventOf (s : State) (id : Nat) : Option State := ((s.focus id).hartEvent).map (·.focus s.h.id)

/-- A cluster of core `k` that waits to pass on (R55). -/
def State.releasable (s : State) (k : Core) : Option Nat :=
  (upTo 8).find? (fun c => k.held.getD c none != (k.lineOf c).head? && s.clusterFree k c)

/-- What a pending write to a Hearth's window makes the Hearth do (R311, R314, R334, R329, R302, R303). -/
def State.serve (s : State) : HearthRequest → State
  | .notify d q _ => after s (execQueueNotify d q s)
  | .descriptor d q _ =>
    let s1 := after s (execQueueStart d q s)
    let s2 := after s1 (execQueueDrain d q s1)
    let s3 := after s2 (execQueueKill d q s2)
    after s3 (execQueueCmdClear d q s3)
  | .shootdown d => after s (execShootdownRequest d s)
  | .attestation d => after s (execAttestationRequest d s)
  | .snapshot d => (after s (execSnapshotRelease s)).dropRequest (.snapshot d)
  | .contexts c => after s (execDebuggerAttach c s)

/-- The next event of a started packet (R315 to R322). -/
def State.packetEvent (s : State) (p : Packet) : Option State :=
  if p.phase = .killing then some (after s (execTaskQuiescence p.id s))
  else match p.type with
    | 1 =>
      match p.waiting.find? (fun w => p.kobj.harts ≤ (s.freeHarts w.2).length) with
      | some w => some (after s (execGroupDispatch ⟨p.id, w.2⟩ s))
      | none => match p.live.find? (fun g =>
          (s.members p.id (some (BitVec.ofNat 16 g))).all (fun h => !h.active && h.streamsEnded)) with
        | some g => some (after s (execGroupRetire p.id g s))
        | none => if p.waiting.isEmpty ∧ p.live.isEmpty then some (after s (execPacketComplete p.id s)) else none
    | 2 => if s.copyMoves p then some (after s (execCopyComplete p.id s)) else none
    | 4 => match s.waitPlace p.die p.ctxid.toNat (p.dword 2) with
      | none => none
      | some k => if !s.aborts k 8 && waitHolds (field (p.dword 0) 16 3) (s.mem.dword k) (p.dword 3) then
          some (after s (execWaitConditionMet p.id s)) else none
    | _ => none

/-- Has the quantum of a hart's context run out (R286)? -/
def State.timerDue (s : State) (h : Hart) : Bool :=
  let q := field (s.contextField h.ctxid.toNat 2) 0 32
  h.active && !h.stopped && q != 0 && h.slice + 1000 * q ≤ s.dev.time

/-- The first event that is due beside the harts. -/
def State.background (s : State) : Option State :=
  if !s.dev.writes.isEmpty then some (s.performAt 0)
  else match (if s.hearthsUp then s.dev.requests.head? else none) with
    | some r => some (s.serve r)
    | none =>
      match s.dev.shootdowns.find? (fun x => s.dev.shootdowns.find? (·.die == x.die) == some x && !s.shootdownWaits x) with
      | some x => some (after s (execShootdownComplete x.die s))
      | none =>
        (s.dev.packets.findSome? s.packetEvent).orElse fun _ =>
        ((s.allHarts.map (·.id)).findSome? s.hartEventOf).orElse fun _ =>
        ((s.core :: s.cores).findSome? (fun k => (s.releasable k).map (fun c => s.releaseCluster k.id c))).orElse fun _ =>
        ((s.allHarts.find? s.timerDue).map (fun h => s.withHart h.id State.raiseTimer)).orElse fun _ =>
        (match s.dev.snapshot with
          | some t => if t ≤ s.dev.time then some (after s (execSnapshotLatch s)) else none
          | none => none)

/-- Can a hart be given its turn? -/
def Hart.runnable (h : Hart) : Bool := h.active && !h.stopped && !h.halted

/-- The next hart after the one in hand, by HARTID, that can be given its turn. -/
def State.rotate (s : State) : State :=
  let ids := (s.harts.filter (·.runnable)).map (·.id)
  match ids.find? (s.h.id < ·) with
  | some i => s.focus i
  | none => match ids.head? with
    | some i => s.focus i
    | none => s

/-! ### The turn of a hart -/

/-- What a hart's turn comes to: a state, an instruction to be executed in a state, or one that the pipeline of the hart in hand executes
ahead of unfinished work, in the state that it sees. -/
inductive Turn where
  | done (s : State)
  | exec (i : Instr) (s : State)
  | ahead (i : Instr) (s t : State)
  deriving DecidableEq, Repr

/-- A hart that cannot go on: an event beside the harts, or the next hart. -/
def State.idle (s : State) : State := s.background.getD s.rotate

/-- The waits of Table 19.5 and R91 to R95 as time passes: what ends the wait of the hart in hand, if it is over. -/
def State.endWait (s : State) : State :=
  match s.h.wait with
  | .none => s
  | .wfe _ => s.wfeTimeout.wake
  | .qwait _ _ => s.qwaitReturn
  | .qclose _ => s.qcloseReturn
  | .bar _ _ => s.barRelease
  | _ => s.orderedRelease

/-- The convoy at the head of the queue goes on: it issues (R68), then retires (R27). -/
def State.driveConvoy (s : State) (cv : Convoy) : State :=
  if !cv.issued then
    let t := s.issueConvoy
    match t.h.convoys with
    | c :: _ => if c.issued then t else s.idle
    | [] => t
  else if s.mustWait cv then s.idle
  else s.retireConvoy

/-- The oldest word that the pipeline has executed ahead takes its effect, in its place in program order: nothing before it is unfinished
(R93). A load leaves what it has read, a store what is held of it, a VSETVL the grant and the claim that it got; every other word is executed
there. -/
def State.commitAhead (s : State) (e : Ahead) (rest : List Ahead) : Turn :=
  let t := s.mapH (fun h => { h with ahead := rest, front := if rest.isEmpty then none else h.front, skipping := false })
  if e.pc ≠ s.h.pc then .done s.dropAhead
  else match e.kind with
    | .plain => .exec e.word t
    | .store => match s.h.heldStores with
      | [] => .done s.dropAhead
      | st :: _ =>
        let u := t.mapH (fun h => { h with front := h.front.map (fun f => { f with held := f.held.drop 1 }) })
        .done (if st.cells.isEmpty then u else u.scalarStored st).advance
    | .load xd v => .done (t.setX xd v).advance
    | .head grant claim _ => match headForm t.h e.word with
      | none => .done t
      | some (xd, avl, vt) => .done (((t.closeAtHead.takeGrant grant).setVt (vt.truncate 11)).headFinish t xd avl claim)
    | .push age => match e.word with
      | .convoy h ws => .done ((after t (execConvoy h ws t)).mapH (fun h => { h with convoys := h.convoys.map (fun c => { c with age := age }) }))
      | i => match startOf i with
        | some f => .done ((after t (t.startNow i f)).mapH (Hart.showFrom t.h))
        | none => .exec i t

/-- The word at the head of the stream queue starts (R223). -/
def State.driveStream (s : State) : State :=
  let t := s.streamStart
  if t.h.squeue.length < s.h.squeue.length then t else s.idle

/-- Pre-emption under way (R292). -/
def State.driveAsync (s : State) : Turn :=
  match s.h.convoys with
  | cv :: _ => .done (if s.asyncFirst && s.headRefused && !s.h.holding then s.enterAsync else s.driveConvoy cv)
  | [] =>
    if !s.h.squeue.isEmpty then .done s.driveStream
    else match s.h.ahead with
      | e :: l => s.commitAhead e l
      | [] => .done s.enterAsync

/-- The fetch at the PC and what it leads to. The word or convoy fetched uses up a SKIP that is in force, also where that is the first word
of a handler which an asynchronous cause has entered before the word at EPC (DESIGN CHOICE, log 25). -/
def State.fetchTurn (s : State) : Turn :=
  let t := s.mapH (fun h => { h with skipping := h.skipNow, skipNow := false })
  if s.h.pc = exitPc then .done t.exitHart
  else match t.h.bpFind [0] t.h.pc with
    | some n => .done (t.breakAt n (t.h.bpSnaps [0] t.h.pc 1) (t.refusal .dbg t.h.pc))
    | none => match t.fetch with
      | .instr i => .exec i (t.enteredFetch i)
      | .refused r d => .done (t.enteredRefused.deny d r)
      | .trap r => .done (t.enteredRefused.raise r)

/-- The turn of the hart in hand. -/
def State.turn (s : State) : Turn :=
  if !s.h.runnable then .done s.idle
  else match s.h.taking with
    | some _ => s.driveAsync
    | none =>
      if s.h.trap.te ∧ (s.h.preempt ∨ s.h.timer) then .done s.beginAsync
      else match s.h.convoys with
        | cv :: _ => .done (s.driveConvoy cv)
        | [] =>
          if !s.h.squeue.isEmpty then .done s.driveStream
          else match s.h.ahead with
            | e :: l => s.commitAhead e l
            | [] =>
              if s.h.wait ≠ .none then
                let t := s.endWait
                .done (if t.h.wait ≠ s.h.wait then t else s.idle)
              else s.fetchTurn

/-- The pipeline of the hart in hand goes one word ahead of its unfinished work, if it may (R93). -/
def State.aheadTurn (s : State) : Turn :=
  match s.nextAhead with
  | none => .done s
  | some (t, i) =>
    if (headForm t.h i).isSome then .done (s.headAhead t i)
    else if (startOf i).isSome || (match i with | .convoy _ _ => true | _ => false) then .done (s.pushAhead t i)
    else match scalarAccess t i, loadForm i, storeForm i with
      | some (_, va, n), some (xd, signed), _ => .done (s.loadAhead t i xd signed va n)
      | some (_, va, n), _, some xs => .done (s.storeAhead t i va n (t.h.rx xs))
      | _, _, _ => .ahead i s t

/-- The turn that the state itself asks for when no agenda is given: of the hart in hand, but every 64th step an event beside the
harts, and every 256th the turn of the next hart (log 1). -/
def State.plan (s : State) : Turn :=
  if s.dev.steps % 64 = 0 ∧ s.h.runnable then
    (if s.dev.steps % 256 = 0 then .done (s.rotate.background.getD s.rotate) else .done (s.background.getD s))
  else s.turn

/-- The events that come about without an instruction of a hart. -/
def spontaneous : Instr → Bool
  | .convoyIssue _ => true
  | .convoyRetire _ => true
  | .hprobeReadStep _ _ => true
  | .hrehashPass _ _ => true
  | .matrixUpdateApply _ _ _ => true
  | .clusterRelease _ _ => true
  | .ssbCommit _ => true
  | .orderedWaitRelease _ => true
  | .wfeWake _ => true
  | .wfeTimeout _ => true
  | .barRelease _ => true
  | .qwaitReturn _ => true
  | .qcloseReturn _ => true
  | .streamStart _ => true
  | .streamElementArrival _ _ _ => true
  | .streamFail _ _ _ => true
  | .qredSend _ _ => true
  | .qredContributionArrival _ _ => true
  | .qfoldApply _ _ => true
  | .tileUseDrain _ => true
  | .tlbWalkComplete _ _ => true
  | .cellarUpdate _ => true
  | .abortCompletion _ _ _ _ => true
  | .preempt _ => true
  | .timer _ => true
  | .preemptDeadline _ => true
  | .preemptTrapEntry _ => true
  | .debuggerAttach _ => true
  | .debugResume _ => true
  | .snapshotLatch => true
  | .snapshotRelease => true
  | .shootdownRequest _ => true
  | .shootdownComplete _ => true
  | .attestationRequest _ => true
  | .queueNotify _ _ => true
  | .queueStart _ _ => true
  | .queueDrain _ _ => true
  | .queueKill _ _ => true
  | .queueCmdClear _ _ => true
  | .waitConditionMet _ => true
  | .copyComplete _ => true
  | .packetComplete _ => true
  | .groupDispatch _ => true
  | .hartExit _ => true
  | .groupRetire _ _ => true
  | .taskQuiescence _ => true
  | .fabricRequestArrival _ _ _ _ => true
  | .fabricAckArrival _ _ _ => true
  | .linkDeath _ _ => true
  | .uetMessage _ => true
  | .portFailure _ => true
  | .bringUp _ => true
  | .thermalLimit => true
  | .overtempKill _ => true
  | _ => false

/-- A debugger writes state of a halted hart through the Hearth (R302; log 25); an F or H register (R167) or a CSR keeps its value where the
value is not one that it takes. -/
def State.debugWrite (s : State) (w : DebugWrite) : State :=
  if !s.h.halted then s
  else match w with
    | .pc v => s.mapH (fun h => { h with pc := BitVec.ofNat 64 (v.toNat / 4 * 4) })
    | .x r v => s.setX r v
    | .v n r => s.mapH (fun h => { h with v := h.v.set n { bits := r.bits &&& BitVec.ofNat 8192 (2 ^ min r.tag 8192 - 1), tag := min r.tag 8192 } })
    | .k n m => s.mapH (fun h => { h with k := h.k.set n m })
    | .f n v => if v = 0 ∨ (layoutOk v ∧ staticOk v) then s.mapH (fun h => { h with f := h.f.set n v }) else s
    | .hf n v => if familyOk v then s.mapH (fun h => { h with hf := h.hf.set n v }) else s
    | .csr n v => match s.writeValue n.toNat v with
      | .ok t => t
      | .error _ => s

/-- What an agenda's move comes to (log 1). -/
def State.act (s : State) : Move → Turn
  | .run i => if i < 12288 then (s.focus i).turn else .done s
  | .event i => if spontaneous i then .exec i s else .done s
  | .ahead i => if i < 12288 then (s.focus i).aheadTurn else .done s
  | .prefetch i a => .done (s.withHart i (·.prefetch a))
  | .mismatch i slot e operand => .done (s.withHart i (·.mismatchAt slot e operand))
  | .poison k n => .done (s.mapDev (fun d => { d with poison := d.poison ++ (upTo (min n 64)).map (k + ·) }))
  | .debug i w => .done (s.withHart i (·.debugWrite w))

/-- What the next step does: the first move of the agenda, or what the state itself asks for. -/
def State.next (s : State) : Turn :=
  match s.agenda with
  | m :: l => (({ s with agenda := l }).tick).act m
  | [] => s.tick.plan

/-! ### An instruction where the next step fetches -/

/-- Contents of memory that map addresses below 1 GiB of context 0 onto die 0: the context's entry, a level-0 pointer, a level-1
leaf that may be read, written and executed, and the bytes of an instruction at address 4. -/
def placement (sup : Bool) (w : Nat) : List Host.Cell :=
  cellsOf (windowKey 0 0x20000) 8 0x200000 ++ cellsOf (windowKey 0 0x20010) 8 0x500000000 ++ cellsOf (windowKey 0 0x20018) 8 0
    ++ cellsOf (devKey 0 0x200000) 8 0x400001 ++ cellsOf (devKey 0 0x400000) 8 (if sup then 0x5F else 0x7F)
    ++ cellsOf (devKey 0 4) 52 w

/-- The hart in hand about to fetch at address 4 of context 0. -/
def Hart.placed (h : Hart) : Hart :=
  { h with active := true, halted := false, stopped := false, pc := 4, ctxid := 0, convoys := [], squeue := [], wait := .none,
           preempt := false, timer := false, taking := none, skipNow := true, skipping := false, ahead := [], front := none, claims := [] }

/-- The machine with an instruction placed for its very next step (log 11). -/
def State.place (s : State) (w : Nat) : State :=
  { s with h := s.h.placed, core := { s.core with icache := [] }, mem := s.mem.writes (placement s.h.trap.sup w), agenda := [], stale := false,
           dev := { s.dev with steps := 0, lost := 0, poison := [] } }

end Sys2Proof.Machine
end

