-- ==== Sys2Proof/Machine/Dispatch.lean ====
section
/-!
DEFINITION. Sys2Proof/Machine/Dispatch.lean: one arm per constructor of Instr.
-/
namespace Sys2Proof.Machine

def exec (i : Instr) (s : State) : Host.Outcome State Fault Refusal :=
  match i with
  | .add xd xa xb => Sys2Proof.Machine.execAdd xd xa xb s
  | .sub xd xa xb => Sys2Proof.Machine.execSub xd xa xb s
  | .and xd xa xb => Sys2Proof.Machine.execAnd xd xa xb s
  | .or xd xa xb => Sys2Proof.Machine.execOr xd xa xb s
  | .xor xd xa xb => Sys2Proof.Machine.execXor xd xa xb s
  | .sll xd xa xb => Sys2Proof.Machine.execSll xd xa xb s
  | .srl xd xa xb => Sys2Proof.Machine.execSrl xd xa xb s
  | .sra xd xa xb => Sys2Proof.Machine.execSra xd xa xb s
  | .slt xd xa xb => Sys2Proof.Machine.execSlt xd xa xb s
  | .sltu xd xa xb => Sys2Proof.Machine.execSltu xd xa xb s
  | .min xd xa xb => Sys2Proof.Machine.execMin xd xa xb s
  | .max xd xa xb => Sys2Proof.Machine.execMax xd xa xb s
  | .minu xd xa xb => Sys2Proof.Machine.execMinu xd xa xb s
  | .maxu xd xa xb => Sys2Proof.Machine.execMaxu xd xa xb s
  | .andn xd xa xb => Sys2Proof.Machine.execAndn xd xa xb s
  | .mul xd xa xb => Sys2Proof.Machine.execMul xd xa xb s
  | .mulh xd xa xb => Sys2Proof.Machine.execMulh xd xa xb s
  | .mulhu xd xa xb => Sys2Proof.Machine.execMulhu xd xa xb s
  | .div xd xa xb => Sys2Proof.Machine.execDiv xd xa xb s
  | .divu xd xa xb => Sys2Proof.Machine.execDivu xd xa xb s
  | .rem xd xa xb => Sys2Proof.Machine.execRem xd xa xb s
  | .remu xd xa xb => Sys2Proof.Machine.execRemu xd xa xb s
  | .clz xd xa => Sys2Proof.Machine.execClz xd xa s
  | .ctz xd xa => Sys2Proof.Machine.execCtz xd xa s
  | .popc xd xa => Sys2Proof.Machine.execPopc xd xa s
  | .vsetvl xd xa xb => Sys2Proof.Machine.execVsetvl xd xa xb s
  | .addi xd xa imm => Sys2Proof.Machine.execAddi xd xa imm s
  | .andi xd xa imm => Sys2Proof.Machine.execAndi xd xa imm s
  | .ori xd xa imm => Sys2Proof.Machine.execOri xd xa imm s
  | .xori xd xa imm => Sys2Proof.Machine.execXori xd xa imm s
  | .slti xd xa imm => Sys2Proof.Machine.execSlti xd xa imm s
  | .sltiu xd xa imm => Sys2Proof.Machine.execSltiu xd xa imm s
  | .slli xd xa shift => Sys2Proof.Machine.execSlli xd xa shift s
  | .srli xd xa shift => Sys2Proof.Machine.execSrli xd xa shift s
  | .srai xd xa shift => Sys2Proof.Machine.execSrai xd xa shift s
  | .ldb xd xa off => Sys2Proof.Machine.execLdb xd xa off s
  | .ldh xd xa off => Sys2Proof.Machine.execLdh xd xa off s
  | .ldw xd xa off => Sys2Proof.Machine.execLdw xd xa off s
  | .ldd xd xa off => Sys2Proof.Machine.execLdd xd xa off s
  | .ldbu xd xa off => Sys2Proof.Machine.execLdbu xd xa off s
  | .ldhu xd xa off => Sys2Proof.Machine.execLdhu xd xa off s
  | .ldwu xd xa off => Sys2Proof.Machine.execLdwu xd xa off s
  | .stb xs xa off => Sys2Proof.Machine.execStb xs xa off s
  | .sth xs xa off => Sys2Proof.Machine.execSth xs xa off s
  | .stw xs xa off => Sys2Proof.Machine.execStw xs xa off s
  | .std xs xa off => Sys2Proof.Machine.execStd xs xa off s
  | .beq xa xb off => Sys2Proof.Machine.execBeq xa xb off s
  | .bne xa xb off => Sys2Proof.Machine.execBne xa xb off s
  | .blt xa xb off => Sys2Proof.Machine.execBlt xa xb off s
  | .bge xa xb off => Sys2Proof.Machine.execBge xa xb off s
  | .bltu xa xb off => Sys2Proof.Machine.execBltu xa xb off s
  | .bgeu xa xb off => Sys2Proof.Machine.execBgeu xa xb off s
  | .jal xd off => Sys2Proof.Machine.execJal xd off s
  | .jalr xd xa off => Sys2Proof.Machine.execJalr xd xa off s
  | .lui xd imm => Sys2Proof.Machine.execLui xd imm s
  | .addpc xd imm => Sys2Proof.Machine.execAddpc xd imm s
  | .amoswap xd xa xb size order scope => Sys2Proof.Machine.execAmoswap xd xa xb size order scope s
  | .amoadd xd xa xb size order scope => Sys2Proof.Machine.execAmoadd xd xa xb size order scope s
  | .amoand xd xa xb size order scope => Sys2Proof.Machine.execAmoand xd xa xb size order scope s
  | .amoor xd xa xb size order scope => Sys2Proof.Machine.execAmoor xd xa xb size order scope s
  | .amoxor xd xa xb size order scope => Sys2Proof.Machine.execAmoxor xd xa xb size order scope s
  | .amomin xd xa xb size order scope => Sys2Proof.Machine.execAmomin xd xa xb size order scope s
  | .amomax xd xa xb size order scope => Sys2Proof.Machine.execAmomax xd xa xb size order scope s
  | .amominu xd xa xb size order scope => Sys2Proof.Machine.execAmominu xd xa xb size order scope s
  | .amomaxu xd xa xb size order scope => Sys2Proof.Machine.execAmomaxu xd xa xb size order scope s
  | .amocas xd xa xb size order scope => Sys2Proof.Machine.execAmocas xd xa xb size order scope s
  | .csrrw xd xa csr => Sys2Proof.Machine.execCsrrw xd xa csr s
  | .csrrs xd xa csr => Sys2Proof.Machine.execCsrrs xd xa csr s
  | .csrrc xd xa csr => Sys2Proof.Machine.execCsrrc xd xa csr s
  | .csrrwi xd uimm csr => Sys2Proof.Machine.execCsrrwi xd uimm csr s
  | .trap code => Sys2Proof.Machine.execTrap code s
  | .eret => Sys2Proof.Machine.execEret s
  | .fence kind scope => Sys2Proof.Machine.execFence kind scope s
  | .bar xa scope => Sys2Proof.Machine.execBar xa scope s
  | .wfe xa => Sys2Proof.Machine.execWfe xa s
  | .yield => Sys2Proof.Machine.execYield s
  | .snap => Sys2Proof.Machine.execSnap s
  | .brk => Sys2Proof.Machine.execBrk s
  | .ifence => Sys2Proof.Machine.execIfence s
  | .loop xa stages rot len => Sys2Proof.Machine.execLoop xa stages rot len s
  | .loops xa stages rot farm len => Sys2Proof.Machine.execLoops xa stages rot farm len s
  | .lexit kn => Sys2Proof.Machine.execLexit kn s
  | .lbrk lv off => Sys2Proof.Machine.execLbrk lv off s
  | .lpop lv => Sys2Proof.Machine.execLpop lv s
  | .qld q => Sys2Proof.Machine.execQld q s
  | .qst q => Sys2Proof.Machine.execQst q s
  | .qred q => Sys2Proof.Machine.execQred q s
  | .qfold q => Sys2Proof.Machine.execQfold q s
  | .qnvm q => Sys2Proof.Machine.execQnvm q s
  | .qwait q => Sys2Proof.Machine.execQwait q s
  | .qavail q => Sys2Proof.Machine.execQavail q s
  | .qclose q => Sys2Proof.Machine.execQclose q s
  | .qsave q => Sys2Proof.Machine.execQsave q s
  | .qrest q => Sys2Proof.Machine.execQrest q s
  | .talloc q => Sys2Proof.Machine.execTalloc q s
  | .tfree q => Sys2Proof.Machine.execTfree q s
  | .tstat q => Sys2Proof.Machine.execTstat q s
  | .tset q => Sys2Proof.Machine.execTset q s
  | .tred q => Sys2Proof.Machine.execTred q s
  | .vsetvli xd xa sew fmt blk rm => Sys2Proof.Machine.execVsetvli xd xa sew fmt blk rm s
  | .bext xd xa pos len => Sys2Proof.Machine.execBext xd xa pos len s
  | .bextu xd xa pos len => Sys2Proof.Machine.execBextu xd xa pos len s
  | .bins xd xa pos len => Sys2Proof.Machine.execBins xd xa pos len s
  | .fshl xd xa xb shift => Sys2Proof.Machine.execFshl xd xa xb shift s
  | .fshr xd xa xb shift => Sys2Proof.Machine.execFshr xd xa xb shift s
  | .bextv xd xa xb => Sys2Proof.Machine.execBextv xd xa xb s
  | .nonInstructionEncoding w => Sys2Proof.Machine.execNonInstructionEncoding w s
  | .convoy header words => Sys2Proof.Machine.execConvoy header words s
  | .convoyIssue hart => Sys2Proof.Machine.execConvoyIssue hart s
  | .convoyRetire hart => Sys2Proof.Machine.execConvoyRetire hart s
  | .vadd v => Sys2Proof.Machine.execVadd v s
  | .vsub v => Sys2Proof.Machine.execVsub v s
  | .vrsub v => Sys2Proof.Machine.execVrsub v s
  | .vand v => Sys2Proof.Machine.execVand v s
  | .vor v => Sys2Proof.Machine.execVor v s
  | .vxor v => Sys2Proof.Machine.execVxor v s
  | .vsll v => Sys2Proof.Machine.execVsll v s
  | .vsrl v => Sys2Proof.Machine.execVsrl v s
  | .vsra v => Sys2Proof.Machine.execVsra v s
  | .vmin v => Sys2Proof.Machine.execVmin v s
  | .vmax v => Sys2Proof.Machine.execVmax v s
  | .vminu v => Sys2Proof.Machine.execVminu v s
  | .vmaxu v => Sys2Proof.Machine.execVmaxu v s
  | .vadds v => Sys2Proof.Machine.execVadds v s
  | .vsubs v => Sys2Proof.Machine.execVsubs v s
  | .vaddus v => Sys2Proof.Machine.execVaddus v s
  | .vmul v => Sys2Proof.Machine.execVmul v s
  | .vmulh v => Sys2Proof.Machine.execVmulh v s
  | .vmulhu v => Sys2Proof.Machine.execVmulhu v s
  | .vmacc v => Sys2Proof.Machine.execVmacc v s
  | .vwiden v => Sys2Proof.Machine.execVwiden v s
  | .vnarrow v => Sys2Proof.Machine.execVnarrow v s
  | .vmerge v => Sys2Proof.Machine.execVmerge v s
  | .vmv v => Sys2Proof.Machine.execVmv v s
  | .vcmpeq v => Sys2Proof.Machine.execVcmpeq v s
  | .vcmpne v => Sys2Proof.Machine.execVcmpne v s
  | .vcmplt v => Sys2Proof.Machine.execVcmplt v s
  | .vcmpltu v => Sys2Proof.Machine.execVcmpltu v s
  | .vcmple v => Sys2Proof.Machine.execVcmple v s
  | .vcmpleu v => Sys2Proof.Machine.execVcmpleu v s
  | .vcmpgt v => Sys2Proof.Machine.execVcmpgt v s
  | .vfadd v => Sys2Proof.Machine.execVfadd v s
  | .vfsub v => Sys2Proof.Machine.execVfsub v s
  | .vfmul v => Sys2Proof.Machine.execVfmul v s
  | .vfdiv v => Sys2Proof.Machine.execVfdiv v s
  | .vfsqrt v => Sys2Proof.Machine.execVfsqrt v s
  | .vfma v => Sys2Proof.Machine.execVfma v s
  | .vfms v => Sys2Proof.Machine.execVfms v s
  | .vfnma v => Sys2Proof.Machine.execVfnma v s
  | .vfmin v => Sys2Proof.Machine.execVfmin v s
  | .vfmax v => Sys2Proof.Machine.execVfmax v s
  | .vfsgn v => Sys2Proof.Machine.execVfsgn v s
  | .vfcmpeq v => Sys2Proof.Machine.execVfcmpeq v s
  | .vfcmplt v => Sys2Proof.Machine.execVfcmplt v s
  | .vfcmple v => Sys2Proof.Machine.execVfcmple v s
  | .vfclass v => Sys2Proof.Machine.execVfclass v s
  | .vfcvt v => Sys2Proof.Machine.execVfcvt v s
  | .vbscale v => Sys2Proof.Machine.execVbscale v s
  | .vbquant v => Sys2Proof.Machine.execVbquant v s
  | .vbdeq v => Sys2Proof.Machine.execVbdeq v s
  | .vid v => Sys2Proof.Machine.execVid v s
  | .vslup v => Sys2Proof.Machine.execVslup v s
  | .vsldn v => Sys2Proof.Machine.execVsldn v s
  | .vperm v => Sys2Proof.Machine.execVperm v s
  | .vcompress v => Sys2Proof.Machine.execVcompress v s
  | .vexpand v => Sys2Proof.Machine.execVexpand v s
  | .vredsum v => Sys2Proof.Machine.execVredsum v s
  | .vredmin v => Sys2Proof.Machine.execVredmin v s
  | .vredmax v => Sys2Proof.Machine.execVredmax v s
  | .vfredo v => Sys2Proof.Machine.execVfredo v s
  | .vfredt v => Sys2Proof.Machine.execVfredt v s
  | .vfredmin v => Sys2Proof.Machine.execVfredmin v s
  | .vfredmax v => Sys2Proof.Machine.execVfredmax v s
  | .vmvxs v => Sys2Proof.Machine.execVmvxs v s
  | .vmvsx v => Sys2Proof.Machine.execVmvsx v s
  | .viota v => Sys2Proof.Machine.execViota v s
  | .kand v => Sys2Proof.Machine.execKand v s
  | .kor v => Sys2Proof.Machine.execKor v s
  | .kxor v => Sys2Proof.Machine.execKxor v s
  | .kandn v => Sys2Proof.Machine.execKandn v s
  | .knot v => Sys2Proof.Machine.execKnot v s
  | .kpopc v => Sys2Proof.Machine.execKpopc v s
  | .kfirst v => Sys2Proof.Machine.execKfirst v s
  | .ksetn v => Sys2Proof.Machine.execKsetn v s
  | .kmv v => Sys2Proof.Machine.execKmv v s
  | .vld v => Sys2Proof.Machine.execVld v s
  | .vlds v => Sys2Proof.Machine.execVlds v s
  | .vldx v => Sys2Proof.Machine.execVldx v s
  | .vst v => Sys2Proof.Machine.execVst v s
  | .vsts v => Sys2Proof.Machine.execVsts v s
  | .vstx v => Sys2Proof.Machine.execVstx v s
  | .vsxadd v => Sys2Proof.Machine.execVsxadd v s
  | .vamoadd v => Sys2Proof.Machine.execVamoadd v s
  | .vamomin v => Sys2Proof.Machine.execVamomin v s
  | .vamomax v => Sys2Proof.Machine.execVamomax v s
  | .vldk v => Sys2Proof.Machine.execVldk v s
  | .vstk v => Sys2Proof.Machine.execVstk v s
  | .mma v => Sys2Proof.Machine.execMma v s
  | .mconv v => Sys2Proof.Machine.execMconv v s
  | .mzero v => Sys2Proof.Machine.execMzero v s
  | .mrdrow v => Sys2Proof.Machine.execMrdrow v s
  | .mwrrow v => Sys2Proof.Machine.execMwrrow v s
  | .vpconv v => Sys2Proof.Machine.execVpconv v s
  | .vpconva v => Sys2Proof.Machine.execVpconva v s
  | .vpack v => Sys2Proof.Machine.execVpack v s
  | .vfext v => Sys2Proof.Machine.execVfext v s
  | .flset v => Sys2Proof.Machine.execFlset v s
  | .flget v => Sys2Proof.Machine.execFlget v s
  | .pclaim v => Sys2Proof.Machine.execPclaim v s
  | .pfree v => Sys2Proof.Machine.execPfree v s
  | .hfset v => Sys2Proof.Machine.execHfset v s
  | .hcode v => Sys2Proof.Machine.execHcode v s
  | .hprobe v => Sys2Proof.Machine.execHprobe v s
  | .hins v => Sys2Proof.Machine.execHins v s
  | .hdel v => Sys2Proof.Machine.execHdel v s
  | .hrehash v => Sys2Proof.Machine.execHrehash v s
  | .hfence v => Sys2Proof.Machine.execHfence v s
  | .hstat v => Sys2Proof.Machine.execHstat v s
  | .hprobeReadStep hart code => Sys2Proof.Machine.execHprobeReadStep hart code s
  | .hrehashPass hart abort => Sys2Proof.Machine.execHrehashPass hart abort s
  | .matrixUpdateApply hart index dataError => Sys2Proof.Machine.execMatrixUpdateApply hart index dataError s
  | .clusterRelease core cluster => Sys2Proof.Machine.execClusterRelease core cluster s
  | .ssbCommit hart => Sys2Proof.Machine.execSsbCommit hart s
  | .orderedWaitRelease hart => Sys2Proof.Machine.execOrderedWaitRelease hart s
  | .wfeWake hart => Sys2Proof.Machine.execWfeWake hart s
  | .wfeTimeout hart => Sys2Proof.Machine.execWfeTimeout hart s
  | .barRelease hart => Sys2Proof.Machine.execBarRelease hart s
  | .qwaitReturn hart => Sys2Proof.Machine.execQwaitReturn hart s
  | .qcloseReturn hart => Sys2Proof.Machine.execQcloseReturn hart s
  | .streamStart hart => Sys2Proof.Machine.execStreamStart hart s
  | .streamElementArrival hart handle element => Sys2Proof.Machine.execStreamElementArrival hart handle element s
  | .streamFail hart handle status => Sys2Proof.Machine.execStreamFail hart handle status s
  | .qredSend hart handle => Sys2Proof.Machine.execQredSend hart handle s
  | .qredContributionArrival hart handle => Sys2Proof.Machine.execQredContributionArrival hart handle s
  | .qfoldApply hart handle => Sys2Proof.Machine.execQfoldApply hart handle s
  | .tileUseDrain hart => Sys2Proof.Machine.execTileUseDrain hart s
  | .tlbWalkComplete hart address => Sys2Proof.Machine.execTlbWalkComplete hart address s
  | .cellarUpdate index => Sys2Proof.Machine.execCellarUpdate index s
  | .abortCompletion hart address element lane => Sys2Proof.Machine.execAbortCompletion hart address element lane s
  | .preempt hart => Sys2Proof.Machine.execPreempt hart s
  | .timer hart => Sys2Proof.Machine.execTimer hart s
  | .preemptDeadline hart => Sys2Proof.Machine.execPreemptDeadline hart s
  | .preemptTrapEntry hart => Sys2Proof.Machine.execPreemptTrapEntry hart s
  | .vtWrite value => Sys2Proof.Machine.execVtWrite value s
  | .vlWrite value => Sys2Proof.Machine.execVlWrite value s
  | .grantWriteZero => Sys2Proof.Machine.execGrantWriteZero s
  | .vmtWrite value => Sys2Proof.Machine.execVmtWrite value s
  | .vstateWrite value => Sys2Proof.Machine.execVstateWrite value s
  | .vtagWrite register value => Sys2Proof.Machine.execVtagWrite register value s
  | .loopCsrWrite csr value => Sys2Proof.Machine.execLoopCsrWrite csr value s
  | .shadowSsbuseWrite value => Sys2Proof.Machine.execShadowSsbuseWrite value s
  | .fflagsWrite value => Sys2Proof.Machine.execFflagsWrite value s
  | .eshadowSelect value => Sys2Proof.Machine.execEshadowSelect value s
  | .pmodeWrite value => Sys2Proof.Machine.execPmodeWrite value s
  | .retryWrite value => Sys2Proof.Machine.execRetryWrite value s
  | .csrWrite csr value => Sys2Proof.Machine.execCsrWrite csr value s
  | .debuggerAttach ctxid => Sys2Proof.Machine.execDebuggerAttach ctxid s
  | .debugResume hart => Sys2Proof.Machine.execDebugResume hart s
  | .snapshotLatch => Sys2Proof.Machine.execSnapshotLatch s
  | .snapshotRelease => Sys2Proof.Machine.execSnapshotRelease s
  | .shootdownRequest die => Sys2Proof.Machine.execShootdownRequest die s
  | .shootdownComplete die => Sys2Proof.Machine.execShootdownComplete die s
  | .attestationRequest die => Sys2Proof.Machine.execAttestationRequest die s
  | .queueNotify die queue => Sys2Proof.Machine.execQueueNotify die queue s
  | .queueStart die queue => Sys2Proof.Machine.execQueueStart die queue s
  | .queueDrain die queue => Sys2Proof.Machine.execQueueDrain die queue s
  | .queueKill die queue => Sys2Proof.Machine.execQueueKill die queue s
  | .queueCmdClear die queue => Sys2Proof.Machine.execQueueCmdClear die queue s
  | .waitConditionMet packet => Sys2Proof.Machine.execWaitConditionMet packet s
  | .copyComplete packet => Sys2Proof.Machine.execCopyComplete packet s
  | .packetComplete packet => Sys2Proof.Machine.execPacketComplete packet s
  | .groupDispatch packet => Sys2Proof.Machine.execGroupDispatch packet s
  | .hartExit hart => Sys2Proof.Machine.execHartExit hart s
  | .groupRetire packet group => Sys2Proof.Machine.execGroupRetire packet group s
  | .taskQuiescence packet => Sys2Proof.Machine.execTaskQuiescence packet s
  | .fabricRequestArrival source target sequence version => Sys2Proof.Machine.execFabricRequestArrival source target sequence version s
  | .fabricAckArrival source target sequence => Sys2Proof.Machine.execFabricAckArrival source target sequence s
  | .linkDeath a b => Sys2Proof.Machine.execLinkDeath a b s
  | .uetMessage message => Sys2Proof.Machine.execUetMessage message s
  | .portFailure port => Sys2Proof.Machine.execPortFailure port s
  | .bringUp stage => Sys2Proof.Machine.execBringUp stage s
  | .thermalLimit => Sys2Proof.Machine.execThermalLimit s
  | .overtempKill die => Sys2Proof.Machine.execOvertempKill die s

end Sys2Proof.Machine
end

