-- ==== Sys2Proof/Machine/Step.lean ====
section
/-!
DEFINITION. Sys2Proof/Machine/Step.lean: one step of the machine (log 1, log 11).
-/
namespace Sys2Proof.Machine

/-- One step: the next instruction, event or turn (`State.next`, Machine/Schedule.lean). -/
def step (s : State) : Host.Outcome State Fault Refusal :=
  match s.next with
  | .done t => .next t
  | .exec i t => exec i t
  | .ahead i t u => .next (t.tookAhead i u (exec i u))

/-- The state with an instruction of which the table gives `nbits` bits, `w`, placed where the next step fetches (log 11). -/
def State.withFetchWord (s : State) (_nbits w : Nat) : State := s.place w

end Sys2Proof.Machine
end

