-- ==== Sys2Proof/Safety.lean ====
section
/-!
DEFINITION. Sys2Proof/Safety.lean: what counts as a safe run, and the shape of a machine: the counts of registers and tables that
the spec fixes (R1 to R7, R98, R129, R168, R183, R207, R221, R300), R71, and the canonical form of memory.
-/
namespace Sys2Proof.Machine

/-- Does a run of `n` steps end without a fault and without a refusal? -/
def runsOn : Nat → State → Bool
  | 0, _ => true
  | n + 1, s => match step s with
    | .next t => runsOn n t
    | _ => false

/-- The parts of a hart in their numbers, those of its checkpoint too; VL elements of the width of VT, and VLCAP of them, fit in a
register (R58, R60). -/
def Hart.shaped (h : Hart) : Bool :=
  h.x.length == 32 && h.v.length == 48 && h.k.length == 12 && h.f.length == 8 && h.hf.length == 4 && h.streams.length == 16
    && h.dba.length == 8 && h.dbctl.length == 8 && h.loops.levels.length == 4 && h.shadow.levels.length == 4
    && (match h.ckpt with | some c => c.loops.levels.length == 4 | none => true)
    && h.vln * h.sew ≤ 8192 && h.vlcap.toNat * h.sew ≤ 8192

/-- The parts of a core in their numbers. -/
def Core.shaped (k : Core) : Bool :=
  k.panes.length == 48 && k.tiles.length == 64 && k.mismatch.length == 16 && k.held.length == 8 && k.line.length == 8

/-- A machine whose parts stand in their numbers and whose memory is canonical. -/
def State.shaped (s : State) : Bool :=
  s.allHarts.all (·.shaped) && (s.core :: s.cores).all (·.shaped) && s.mem.wf

/-! ### Plain flow -/

/-- `t` is `s` with the PC moved on: nothing but the PC, the loop CSRs and the place of a strip's stores and checkpoint
differs, and the stores that the hart's own reads see are the same (R149, R150, R156, R157). -/
def State.flows (s t : State) : Prop :=
  t = s.mapH (fun h => { h with pc := t.h.pc, loops := t.h.loops, closed := t.h.closed, ssb := t.h.ssb, ckpt := t.h.ckpt })
    ∧ t.h.closed ++ t.h.ssb = s.h.closed ++ s.h.ssb

/-! ### A vector instruction in a convoy of its own (R20, R68, R333) -/

/-- The convoy of one instruction at the PC. -/
def State.soleConvoy (s : State) (i : Instr) : Convoy := newConvoy s.h.pc (s.h.pc + 12) [i] s.dev.steps

/-- The state with that convoy queued. -/
def State.queued (s : State) (i : Instr) : State := s.mapH (fun h => { h with convoys := [s.soleConvoy i] })

/-- The convoy as its issue leaves it, when it is ready (R68). -/
def State.soleIssue (s : State) (i : Instr) : Option Convoy := ((s.queued i).ready (s.soleConvoy i)).map (·.1)

/-- The addresses that the issue translates, which enter the TLBs (R245). -/
def State.soleAddresses (s : State) (i : Instr) : List Word :=
  match (s.queued i).ready (s.soleConvoy i) with
  | some p => p.2
  | none => []

/-- The state after the issue of the convoy `cv`: panes claimed, translations entered, what stands before a table word's reads performed, the
round-robin pointer moved on. -/
def State.afterIssue (s : State) (cv : Convoy) : State :=
  ((((s.takePanes cv.claimed).enteredAll (cv.words.flatMap s.soleAddresses)).mapH (fun h => { h with convoys := [cv] })).mapCore
    (fun k => { k with rrIssue := (s.h.id % 4 + 1) % 4 })).tablesHome cv.words

/-- The state in which the words of the convoy `cv` run at its retirement: for a table word with what stands before its reads performed, and
its translations entered. -/
def State.atRetire (s : State) (cv : Convoy) : State := (s.afterIssue cv).tablesRead cv

/-- Can a convoy of one instruction be pushed, issued and retired at once: header aligned and well formed, nothing queued or ahead,
no request for a trap past its time, registers held, within its bodies, every cluster of GRANT usable and released, no older convoy of the
core before it, units and buffers free, interlocks clear, nothing refused at the issue, nothing holding its retirement (R68, R151, R212, R254,
R292, R333)? -/
def vectorReady (i : Instr) (s : State) : Bool :=
  s.h.pc.toNat % 8 == 4 && (vecFault i).isNone && s.h.convoys.isEmpty && s.h.front.isNone && !s.h.overdue s.dev.time && s.h.vstate != 0
    && !s.h.loops.overruns s.h.pc (s.h.pc + 12) && (s.queued i).lostCluster.isNone
    && !(upTo 4).any (fun j => 4 * s.core.id + j != s.h.id && (s.queued i).yieldsTo (s.soleConvoy i) (4 * s.core.id + j))
    && (match s.soleIssue i with
      | some cv => cv.refused.isNone && !holdsRetirement i (s.afterIssue cv)
      | none => false)

/-- The state that a vector instruction leaves whose convoy took no pane and whose effect on the hart is `f` (R27). -/
def State.vectorDone (s : State) (f : Hart → Hart) : State :=
  ((s.mapCore (fun k => { k with rrIssue := (s.h.id % 4 + 1) % 4 })).mapH f).advanceTo (s.h.pc + 12)

/-- VSTATE after a write of a V or K register: 3 when it was 1 or 2 (R102). -/
def Hart.touched (h : Hart) : BitVec 2 := if h.vstate = 1 ∨ h.vstate = 2 then 3 else h.vstate

/-- Write the register named `n`: `m` elements of width `w`, tag w * m; its dirty bit is set (R99, R101); nothing at VL = 0
(R63). -/
def Hart.writeV (h : Hart) (n w m : Nat) (f : Nat → Nat) : Hart :=
  if h.vln = 0 then h
  else
    let p := h.loops.physical n
    { h with v := h.v.set p (VReg.build w m f), vdirty := h.vdirty ||| BitVec.ofNat 48 (2 ^ p), vstate := h.touched }

/-- Write mask register `n`: bits below VL by `f`, the others 0 (R129); its dirty bit is set; nothing at VL = 0 (R63). -/
def Hart.writeK (h : Hart) (n : Nat) (f : Nat → Bool) : Hart :=
  if h.vln = 0 then h
  else { h with k := h.k.set n (buildMask h.vln f), kdirty := h.kdirty ||| BitVec.ofNat 12 (2 ^ n), vstate := h.touched }

/-- OR flags into FFLAGS (R110). -/
def Hart.orFlags (h : Hart) (fl : BitVec 5) : Hart := { h with fflags := h.fflags ||| fl }

/-- Element `e` at width `w` of the register named `n`. -/
def Hart.elem (h : Hart) (n w e : Nat) : Nat := (vname h.loops h.v n).elem w e

/-- The second operand b(e) of a VALU or VPERM word (R23, R113). -/
def Hart.second (h : Hart) (v : VArgs) (e : Nat) : Nat := secondOf v h.loops h.v (h.rx v.xs) h.sew e

/-- Is element `e` active (R24)? -/
def Hart.takes (h : Hart) (v : VArgs) (e : Nat) : Bool := v.active h.k e

/-- Bit `e` of mask register `n`. -/
def Hart.maskBit (h : Hart) (n e : Nat) : Bool := (h.k.getD n 0).getLsbD e

/-- The active elements below VL receive `op e`, the others keep what vd held (R113). -/
def Hart.writeEach (h : Hart) (v : VArgs) (w : Nat) (op : Nat → Nat) : Hart :=
  h.writeV v.vd.toNat w h.vln (fun e => if h.takes v e then op e else h.elem v.vd.toNat w e)

/-- The OR of the flags of the active elements below VL (R113). -/
def Hart.flagsOf (h : Hart) (v : VArgs) (f : Nat → BitVec 5) : BitVec 5 :=
  ((upTo h.vln).filter (h.takes v)).foldl (fun a e => a ||| f e) 0

/-! ### Scalar results and frames -/

/-- Does `i` complete by writing X[xd] with a value that satisfies `p`, the PC moving on (R76 to R81)? -/
def State.gives (s : State) (i : Instr) (xd : XReg) (p : Word → Prop) : Prop :=
  ∃ v, exec i s = .next (s.setX xd v).advance ∧ p v

/-- Everything of a hart that only special instructions write: vector state, CSRs, traps, debug, streams, queues. -/
def Hart.sameSpecial (a b : Hart) : Prop :=
  b.v = a.v ∧ b.k = a.k ∧ b.f = a.f ∧ b.hf = a.hf ∧ b.vl = a.vl ∧ b.vt = a.vt ∧ b.vmt = a.vmt ∧ b.vlcap = a.vlcap
    ∧ b.grant = a.grant ∧ b.xexit = a.xexit ∧ b.xstrip = a.xstrip ∧ b.fflags = a.fflags ∧ b.ctxid = a.ctxid
    ∧ b.shadow = a.shadow ∧ b.vdirty = a.vdirty ∧ b.kdirty = a.kdirty ∧ b.vstate = a.vstate ∧ b.trap = a.trap
    ∧ b.dba = a.dba ∧ b.dbctl = a.dbctl ∧ b.pmode = a.pmode ∧ b.retry = a.retry ∧ b.convoys = a.convoys
    ∧ b.squeue = a.squeue ∧ b.mq = a.mq ∧ b.streams = a.streams ∧ b.migr = a.migr

/-- The frame of a scalar instruction whose destination is `xd`: every other X register, the vector state, the CSRs beside those
of the loops, the trap and debug registers, the line monitor and the event bit, what the hart waits in, its pending causes, the core with its
accumulators, the other harts and cores, memory, and every byte as either agent of the hart reads it are as before; the loop CSRs too while
no level is active (R149, R150). -/
def State.frame (s t : State) (xd : XReg) : Prop :=
  (∀ r, r ≠ xd → t.h.rx r = s.h.rx r) ∧ s.h.sameSpecial t.h ∧ t.h.monitor = s.h.monitor ∧ t.h.event = s.h.event ∧ t.h.wait = s.h.wait
    ∧ t.h.preempt = s.h.preempt ∧ t.h.timer = s.h.timer ∧ t.core = s.core ∧ t.harts = s.harts ∧ t.cores = s.cores
    ∧ t.dev = s.dev ∧ t.mem = s.mem ∧ (∀ vector k, t.readByte vector k = s.readByte vector k)
    ∧ (s.h.loops.lact = 0 → t.h.loops = s.h.loops ∧ t.h.pc = s.h.pc + 4)

/-- The destination of a scalar instruction that only computes. -/
def aluDest : Instr → Option XReg
  | .add xd _ _ => some xd
  | .sub xd _ _ => some xd
  | .and xd _ _ => some xd
  | .or xd _ _ => some xd
  | .xor xd _ _ => some xd
  | .sll xd _ _ => some xd
  | .srl xd _ _ => some xd
  | .sra xd _ _ => some xd
  | .slt xd _ _ => some xd
  | .sltu xd _ _ => some xd
  | .min xd _ _ => some xd
  | .max xd _ _ => some xd
  | .minu xd _ _ => some xd
  | .maxu xd _ _ => some xd
  | .andn xd _ _ => some xd
  | .mul xd _ _ => some xd
  | .mulh xd _ _ => some xd
  | .mulhu xd _ _ => some xd
  | .div xd _ _ => some xd
  | .divu xd _ _ => some xd
  | .rem xd _ _ => some xd
  | .remu xd _ _ => some xd
  | .clz xd _ => some xd
  | .ctz xd _ => some xd
  | .popc xd _ => some xd
  | .addi xd _ _ => some xd
  | .andi xd _ _ => some xd
  | .ori xd _ _ => some xd
  | .xori xd _ _ => some xd
  | .slti xd _ _ => some xd
  | .sltiu xd _ _ => some xd
  | .slli xd _ _ => some xd
  | .srli xd _ _ => some xd
  | .srai xd _ _ => some xd
  | .lui xd _ => some xd
  | .addpc xd _ => some xd
  | .bext xd _ _ _ => some xd
  | .bextu xd _ _ _ => some xd
  | .bins xd _ _ _ => some xd
  | .fshl xd _ _ _ => some xd
  | .fshr xd _ _ _ => some xd
  | .bextv xd _ _ => some xd
  | _ => none

/-! ### Scalar memory accesses -/

/-- May a scalar access of `n` bytes at `va` proceed to the place `p`: aligned, mapped and permitted, no breakpoint, and where it reads no
abort completion of a byte that the hart's own stores do not give (R83, R158, R296, R301)? -/
def State.reaches (s : State) (a : Access) (kinds : List Nat) (va : Word) (n : Nat) (p : Place) : Prop :=
  va.toNat % n = 0 ∧ s.scalarPlace a va = .ok p ∧ s.h.bpRange kinds va n = none ∧ (a ≠ .store → s.readAborts false p.key n = false)

/-- A hart but for its event bit. -/
def Hart.unwoken (h : Hart) : Hart := { h with event := false }

/-- The frame of a scalar load whose destination is `xd`: every other X register, the vector state, the CSRs beside those of the loops, the
trap and debug registers, the core with its accumulators but for its TLB, and the other harts and cores but for an event bit are
as before; of the device only accepted writes and what their arrival changes; every byte that no accepted write covers reads as before,
and memory as a whole where none waits. -/
def State.readFrame (s t : State) (xd : XReg) : Prop :=
  (∀ r, r ≠ xd → t.h.rx r = s.h.rx r) ∧ s.h.sameSpecial t.h ∧ t.core = { s.core with tlb := t.core.tlb } ∧ t.cores = s.cores
    ∧ t.harts.map Hart.unwoken = s.harts.map Hart.unwoken
    ∧ t.dev = { s.dev with writes := t.dev.writes, channels := t.dev.channels, requests := t.dev.requests, poison := t.dev.poison,
                           tlb2 := t.dev.tlb2 }
    ∧ (∀ vector k, (∀ w ∈ s.dev.writes, ∀ c ∈ w.cells, c.1 ≠ k) → t.mem.read k = s.mem.read k ∧ t.readByte vector k = s.readByte vector k)
    ∧ (s.dev.writes = [] → t.mem = s.mem) ∧ (s.h.loops.lact = 0 → t.h.loops = s.h.loops ∧ t.h.pc = s.h.pc + 4)

/-- The keys at which byte `j` of an access at a place is written: one, or one on every die of a REPL page (R244). -/
def Place.homes (p : Place) (j : Nat) : List Nat :=
  if p.repl then (upTo 6).map (fun d => devKey d ((p.key + j) % 2 ^ 37)) else [p.key + j]

/-- Byte `j` of a word. -/
def byteOf (v : Word) (j : Nat) : Byte := v.extractLsb' (8 * j) 8

/-- The bytes at and above a key, as the scalar agent of the hart reads them. -/
def State.scalarByte (s : State) (key j : Nat) : Byte := s.readByte false (key + j)

/-- The kinds of breakpoint that an access is compared with (Table 19.9). -/
def Access.kinds : Access → List Nat
  | .fetch => [0]
  | .load => [1, 3]
  | .store => [2, 3]
  | .atomic => [1, 2, 3]

/-! ### CSR instructions -/

/-- Destination, CSR, whether it writes, and the value it writes, of a CSR instruction (R75; R59 for CSRRWI). -/
def csrForm (s : State) : Instr → Option (XReg × Nat × Bool × Word)
  | .csrrw xd xa c => some (xd, c.toNat, true, s.h.rx xa)
  | .csrrs xd xa c => some (xd, c.toNat, xa != 0, s.readCsr c.toNat ||| s.h.rx xa)
  | .csrrc xd xa c => some (xd, c.toNat, xa != 0, s.readCsr c.toNat &&& ~~~ s.h.rx xa)
  | .csrrwi xd u c => some (xd, c.toNat,
      !([0x000, 0x001, 0x003, 0x004, 0x301].contains c.toNat && s.readCsr c.toNat == u.setWidth 64), u.setWidth 64)
  | _ => none

/-! ### Quiet harts -/

/-- Nothing of the hart in hand is queued, waited for or buffered, and no level is active. -/
def Hart.quiet (h : Hart) : Prop :=
  h.convoys = [] ∧ h.squeue = [] ∧ h.wait = .none ∧ h.ssb = [] ∧ h.closed = [] ∧ h.loops.lact = 0 ∧ h.loops.opn = false

/-- The PC moves past one word; nothing else changes. -/
def State.past (s : State) : State := s.mapH (fun h => { h with pc := h.pc + 4 })

/-- Does the vector instruction complete, its effect on the hart being `f`? -/
def State.retires (s : State) (i : Instr) (f : Hart → Hart) : Prop := exec i s = .next (s.vectorDone f)

/-- A test (R116): mask Kd, named in the vd field. -/
def Hart.testEach (h : Hart) (v : VArgs) (p : Nat → Bool) : Hart :=
  h.writeK v.vd.toNat (fun e => if h.takes v e then p e else h.maskBit v.vd.toNat e)

/-- The active elements below `n`, ascending. -/
def Hart.activeBelow (h : Hart) (v : VArgs) (n : Nat) : List Nat := (upTo n).filter (h.takes v)

/-- Write X[r] unless VL is 0 (R63). -/
def Hart.writeX (h : Hart) (r : XReg) (x : Word) : Hart := if h.vln = 0 then h else h.wx r x

/-- The state that a vector instruction leaves whose convoy issued as `cv` and whose effect on the machine is `f` (R27). -/
def State.effectDone (s : State) (cv : Convoy) (f : State → State) : State :=
  ((f (s.atRetire cv)).mapH (fun h => { h with convoys := [] })).advanceTo (s.h.pc + 12)

/-- The context in which the instruction of the sole convoy `cv` runs. -/
def State.soleCtx (s : State) (cv : Convoy) : Ctx := Ctx.start (s.atRetire cv) cv

/-- Does a vector memory instruction of the form `m` reach the place `at' e` with every element that it takes (R211 to R214)? -/
def State.lands (s : State) (i : Instr) (cv : Convoy) (m : VAddr) (a : Access) (v : VArgs) (at' : Nat → Place) : Prop :=
  vectorReady i s = true ∧ s.soleIssue i = some cv ∧ s.h.vln ≠ 0 ∧ (m = .indexed → s.h.vln * v.indexWidth s.h.sew ≤ 8192)
    ∧ s.targetAbsent = false ∧ ∀ e ∈ (s.soleCtx cv).items m v, (s.soleCtx cv).checkItem m a v e = .ok (at' e)

/-- Write a register as a whole (R99, R101). -/
def Hart.writeReg (h : Hart) (n : Nat) (r : VReg) : Hart :=
  let p := h.loops.physical n
  { h with v := h.v.set p r, vdirty := h.vdirty ||| BitVec.ofNat 48 (2 ^ p), vstate := h.touched }

end Sys2Proof.Machine
end

