-- ==== Sys2Proof/WellFormed.lean ====
section
/-!
DEFINITION. Sys2Proof/WellFormed.lean: the operands that an instruction's encoding or an event's place in the machine admits
(R29, R30 of spec/02_encoding.md; Tables 12.5, 13.3; R4, R7 of spec/00_scope.md for the numbers of harts and cores).
-/
namespace Sys2Proof

/-- Number of harts that HARTID can name: six dies of 512 cores of four harts (Table 5.3). -/
def hartCount : Nat := 12288

/-- Does a convoy pass steps 3 to 7 of Table 2.6, with as many words as its header says? -/
def convoyOk (h : ConvoyHeader) (ws : List Word) : Bool :=
  h.ok && ws.length == h.count && (firstEnc 0 h.units ws).isNone && (match vecInstrs 0 h.units ws with
    | .ok _ => true
    | .error _ => false)

/-- Do the operands of a scalar word, a convoy or a word that is no instruction stand as the encoding admits? -/
def scalarOk : Instr → Bool
  | .loop _ _ _ len => len != 0
  | .loops _ _ _ _ len => len != 0
  | .lexit kn => kn.toNat < 12
  | .bext _ _ pos len => Machine.bitFieldOk pos len
  | .bextu _ _ pos len => Machine.bitFieldOk pos len
  | .bins _ _ pos len => Machine.bitFieldOk pos len
  | .bar xa p => !(p == .hart || p == .core) || xa == 0
  | .convoy h ws => convoyOk h ws
  | .nonInstructionEncoding w => decodeWord w == .nonInstructionEncoding w
  | _ => true

/-- Does an external message name memory that the device has (R237)? -/
def messageOk : UetMessage → Bool
  | .write d o bs => d < 6 && o + bs.length ≤ 2 ^ 37
  | .read d o n => d < 6 && o + n ≤ 2 ^ 37
  | .send _ _ p d o bs => p < 12 && d < 6 && o + bs.length ≤ 2 ^ 37
  | .deliver _ => true

/-- Do the operands of an event name parts that the machine has? -/
def eventOk : Instr → Bool
  | .convoyIssue h => h < hartCount
  | .convoyRetire h => h < hartCount
  | .hprobeReadStep h c => h < hartCount && c < 8
  | .hrehashPass h _ => h < hartCount
  | .matrixUpdateApply h i _ => h < hartCount && i < 16
  | .clusterRelease k c => k < 3072 && c < 8
  | .ssbCommit h => h < hartCount
  | .orderedWaitRelease h => h < hartCount
  | .wfeWake h => h < hartCount
  | .wfeTimeout h => h < hartCount
  | .barRelease h => h < hartCount
  | .qwaitReturn h => h < hartCount
  | .qcloseReturn h => h < hartCount
  | .streamStart h => h < hartCount
  | .streamElementArrival h q _ => h < hartCount && q < 16
  | .streamFail h q t => h < hartCount && q < 16 && 1 ≤ t && t ≤ 7
  | .qredSend h q => h < hartCount && q < 16
  | .qredContributionArrival h q => h < hartCount && q < 16
  | .qfoldApply h q => h < hartCount && q < 16
  | .tileUseDrain h => h < hartCount
  | .tlbWalkComplete h _ => h < hartCount
  | .abortCompletion h _ e l => h < hartCount && e < 4096 && l < 32
  | .preempt h => h < hartCount
  | .timer h => h < hartCount
  | .preemptDeadline h => h < hartCount
  | .preemptTrapEntry h => h < hartCount
  | .vtagWrite r _ => r.toNat < 48
  | .loopCsrWrite c _ => (0x020 ≤ c.toNat && c.toNat ≤ 0x034) || (0x120 ≤ c.toNat && c.toNat ≤ 0x134)
  | .debuggerAttach c => c < 1024
  | .debugResume h => h < hartCount
  | .shootdownRequest d => d < 6
  | .shootdownComplete d => d < 6
  | .attestationRequest d => d < 6
  | .queueNotify d q => d < 6 && q < 64
  | .queueStart d q => d < 6 && q < 64
  | .queueDrain d q => d < 6 && q < 64
  | .queueKill d q => d < 6 && q < 64
  | .queueCmdClear d q => d < 6 && q < 64
  | .groupDispatch p => p.core < 3072
  | .hartExit h => h < hartCount
  | .groupRetire _ g => g < 65536
  | .fabricRequestArrival a b n v => a < 6 && b < 6 && n < 65536 && v < 256
  | .fabricAckArrival a b n => a < 6 && b < 6 && n < 65536
  | .linkDeath a b => a < b && b < 6
  | .uetMessage m => messageOk m
  | .portFailure p => p < 12
  | .bringUp n => 1 ≤ n && n ≤ 5
  | .overtempKill d => d < 6
  | _ => true

/-- Is an instruction or an event well formed? -/
def Instr.wf (i : Instr) : Bool := scalarOk i && wqFieldsOk i && (vecFault i).isNone && eventOk i

end Sys2Proof
end

