-- ==== Sys2Proof/Certificates/Slice0/Obligations.lean ====
section
/-!
DEFINITION. Sys2Proof/Certificates/Slice0/Obligations.lean: what is claimed of the machine, rule by rule. Every helper that a
statement uses stands in Sys2Proof/Safety.lean or in the model itself.
-/

open Sys2Proof Sys2Proof.Machine

/-! ### Steps and decoding -/

/-- A step runs what stands at the PC (R14, R15, R30): when nothing else is due, the bytes at the PC decode to `i`, and the hart may
fetch them, the step is `exec i` at the state one tick later, with the skip of R289 in force for this word alone and the fetch's translation
in the TLBs. What the step adds around `exec`, the tick of the counters, is the model's (log 1, log 7). A move of the agenda that names
an event runs that event. When a hart's pipeline goes ahead of its unfinished work by a word that neither reads nor writes
memory, sets VL nor is pushed, `exec` gives what the pipeline sees after it (R93; log 10). An execute breakpoint that matches the PC refuses
what stands there with DBG, the lowest matching one in BP and the PC in EVAL, before it is fetched (R301).
Where the rules leave a point open, it follows the model's reading in log 10 and log 11. -/
def Obligations.StepRunsDecodedInstruction : Prop :=
  (∀ (s : State) (w : Word32) (bs rest : List Byte) (i : Instr),
    let t := s.tick.mapH (fun h => { h with skipping := h.skipNow, skipNow := false })
    s.agenda = [] → t.dev.steps % 64 ≠ 0 → t.h.runnable = true → t.h.taking = none →
    ¬ (t.h.trap.te = true ∧ (t.h.preempt = true ∨ t.h.timer = true)) →
    t.h.convoys = [] → t.h.squeue = [] → t.h.ahead = [] → t.h.wait = .none → t.h.pc ≠ exitPc → t.h.pc.toNat % 4 = 0 →
    t.h.bpFind [0] t.h.pc = none →
    t.fetchWord t.h.pc = .ok w → (isHeader w = true → t.h.pc.toNat % 8 = 4) →
    t.fetchWords (t.h.pc + 4) (vectorWords w) = .ok bs → decode (bytesOf 4 w.toNat ++ bs) = some (i, rest) →
    step s = exec i (t.enteredFetch i)) ∧
  (∀ (s : State) (b : Nat),
    let t := s.tick.mapH (fun h => { h with skipping := h.skipNow, skipNow := false })
    s.agenda = [] → t.dev.steps % 64 ≠ 0 → t.h.runnable = true → t.h.taking = none →
    ¬ (t.h.trap.te = true ∧ (t.h.preempt = true ∨ t.h.timer = true)) →
    t.h.convoys = [] → t.h.squeue = [] → t.h.ahead = [] → t.h.wait = .none → t.h.pc ≠ exitPc →
    b < 8 → t.h.bpMatches [0] t.h.pc b = true → (∀ c, c < b → t.h.bpMatches [0] t.h.pc c = false) →
    step s = .next ((if t.h.bpSnaps [0] t.h.pc 1 then t.triggerSnapshot else t).raise
      { cause := .dbg, bp := b, epc := t.h.pc, eval := t.h.pc, eelem := 0, elane := 0 })) ∧
  (∀ (s : State) (i : Instr) (l : List Move), s.agenda = .event i :: l → spontaneous i = true →
    step s = exec i { s with agenda := l }.tick) ∧
  (∀ (s t u v : State) (i : Instr) (id : Nat) (l : List Move), s.agenda = .ahead id :: l → id < 12288 →
    u = ({ s with agenda := l }.tick).focus id → u.nextAhead = some (t, i) →
    headForm t.h i = none → startOf i = none → (∀ h ws, i ≠ .convoy h ws) → scalarAccess t i = none →
    exec i t = .next v → t.trappedIn v = false → step s = .next (u.wentAhead t.h.pc i .plain u.h.heldStores v))

/-- Words written out from the encoding tables decode to what they stand for (Tables 5.6, 8.5, 4.8 and the sample words of the
chapters): one of every scalar format, and vector words under their units. -/
def Obligations.SampleWordsDecode : Prop :=
  decodeWord 0x042CE000 = .add 8 11 7 ∧ decodeWord 0x14198002 = .slli 8 6 2 ∧ decodeWord 0x23958010 = .ldd 7 5 16 ∧
  decodeWord 0x34897FFC = .stw 9 2 0x7FFC ∧ decodeWord 0x4500FFF8 = .bne 10 0 0x7FF8 ∧ decodeWord 0x50800040 = .jal 1 64 ∧
  decodeWord 0x60040000 = .jalr 0 1 0 ∧ decodeWord 0x72C00000 = .lui 5 0x400000 ∧
  decodeWord 0x9031A150 = .amoswap 0 12 13 .d .rel .dev ∧ decodeWord 0xA1380018 = .csrrs 7 0 6 ∧
  decodeWord 0xA6000400 = .fence .sv .dev ∧ decodeWord 0xB1AA0009 = .loop 13 2 true 9 ∧
  decodeWord 0xB541000E = .loops 10 0 false true 14 ∧ decodeWord 0xB8040000 = .lexit 1 ∧ decodeWord 0xB8900000 = .lpop 1 ∧
  decodeWord 0xC010EB00 = .qld { qn := 2, tn := 7, xa := 11, xb := 0, mode := 0 } ∧
  decodeWord 0xCC440A30 = .vsetvli 6 10 4 2 0 0 ∧ decodeWord 0xD87317A0 = .fshr 7 6 5 58 ∧
  decodeWord 0xE0000000 = .nonInstructionEncoding 0xE0000000 ∧
  vecInstr 0 0x4040C2F800000000 = some (.vfadd { vd := 8, vs1 := 6, vs2 := 5, km := 15, kinv := false, form := 0, xs := 0, ext := 0 }) ∧
  vecInstr 2 0x0020007A2C000000 = some (.vld { vd := 4, vs1 := 0, vs2 := 0, km := 15, kinv := false, form := 4, xs := 11, ext := 0 })

/-- Decoding and encoding agree on everything that a program is made of (R18, R30, R34 to R36, R20): a well-formed scalar word,
convoy or non-instruction word decodes from its bytes, whatever follows them, with every operand. -/
def Obligations.WordsRoundTrip : Prop :=
  ∀ (i : Instr) (bs rest : List Byte), i.wf = true → encode i = some bs → decode (bs ++ rest) = some (i, rest)

/-- Decoding and encoding agree on every vector word under its unit (R21 to R25, R37): a well-formed vector instruction decodes
from its word with every field, and is refused neither with ENC nor with ILL.
Where the rules leave a point open, it follows the model's reading in log 29. -/
def Obligations.VectorWordsRoundTrip : Prop :=
  ∀ (i : Instr) (unit : Nat) (w : Word), i.wf = true → encodeVec i = some (unit, w) →
    encFault unit w = false ∧ vecInstr unit w = some i

/-! ### X registers and scalar arithmetic -/

/-- R71: 32 registers of 64 bits; X0 reads as zero and a write to it is discarded; every other register holds the last value
written. The count of 32 is a premise of the last clause; reset has it, and every step keeps it (StepKeepsShape). -/
def Obligations.XRegisters : Prop :=
  ∀ (h : Hart) (v : Word), h.rx 0 = 0 ∧ h.wx 0 v = h ∧
    ∀ r : XReg, r ≠ 0 → h.x.length = 32 → (h.wx r v).rx r = v ∧ ∀ q : XReg, q ≠ r → (h.wx r v).rx q = h.rx q

/-- Table 5.4 (R76): each three-register instruction completes in every state; its result wraps, divisions round toward zero, and
none traps on its values. -/
def Obligations.ThreeRegisterResults : Prop :=
  ∀ (xd xa xb : XReg) (s : State),
    let a := s.h.rx xa
    let b := s.h.rx xb
    s.gives (.add xd xa xb) xd (fun v => v.toNat = (a.toNat + b.toNat) % 2 ^ 64) ∧
    s.gives (.sub xd xa xb) xd (fun v => v.toNat = (a.toNat + (2 ^ 64 - b.toNat)) % 2 ^ 64) ∧
    s.gives (.and xd xa xb) xd (fun v => ∀ i, v.getLsbD i = (a.getLsbD i && b.getLsbD i)) ∧
    s.gives (.or xd xa xb) xd (fun v => ∀ i, v.getLsbD i = (a.getLsbD i || b.getLsbD i)) ∧
    s.gives (.xor xd xa xb) xd (fun v => ∀ i, v.getLsbD i = (a.getLsbD i != b.getLsbD i)) ∧
    s.gives (.andn xd xa xb) xd (fun v => ∀ i, i < 64 → v.getLsbD i = (a.getLsbD i && !b.getLsbD i)) ∧
    s.gives (.sll xd xa xb) xd (fun v => v.toNat = a.toNat * 2 ^ (b.toNat % 64) % 2 ^ 64) ∧
    s.gives (.srl xd xa xb) xd (fun v => v.toNat = a.toNat / 2 ^ (b.toNat % 64)) ∧
    s.gives (.sra xd xa xb) xd (fun v => v.toInt = a.toInt / 2 ^ (b.toNat % 64)) ∧
    s.gives (.slt xd xa xb) xd (fun v => v = if a.toInt < b.toInt then 1 else 0) ∧
    s.gives (.sltu xd xa xb) xd (fun v => v = if a.toNat < b.toNat then 1 else 0) ∧
    s.gives (.min xd xa xb) xd (fun v => v.toInt = min a.toInt b.toInt) ∧
    s.gives (.max xd xa xb) xd (fun v => v.toInt = max a.toInt b.toInt) ∧
    s.gives (.minu xd xa xb) xd (fun v => v.toNat = min a.toNat b.toNat) ∧
    s.gives (.maxu xd xa xb) xd (fun v => v.toNat = max a.toNat b.toNat) ∧
    s.gives (.mul xd xa xb) xd (fun v => v.toNat = a.toNat * b.toNat % 2 ^ 64) ∧
    s.gives (.mulh xd xa xb) xd (fun v => v.toInt = a.toInt * b.toInt / 2 ^ 64) ∧
    s.gives (.mulhu xd xa xb) xd (fun v => v.toNat = a.toNat * b.toNat / 2 ^ 64) ∧
    s.gives (.div xd xa xb) xd (fun v => v = if b = 0 then BitVec.allOnes 64 else BitVec.ofInt 64 (a.toInt.tdiv b.toInt)) ∧
    s.gives (.divu xd xa xb) xd (fun v => v = if b = 0 then BitVec.allOnes 64 else BitVec.ofNat 64 (a.toNat / b.toNat)) ∧
    s.gives (.rem xd xa xb) xd (fun v => v = if b = 0 then a else BitVec.ofInt 64 (a.toInt.tmod b.toInt)) ∧
    s.gives (.remu xd xa xb) xd (fun v => v = if b = 0 then a else BitVec.ofNat 64 (a.toNat % b.toNat)) ∧
    s.gives (.clz xd xa) xd (fun v => if a = 0 then v = 64 else 2 ^ (63 - v.toNat) ≤ a.toNat ∧ a.toNat < 2 ^ (64 - v.toNat)) ∧
    s.gives (.ctz xd xa) xd (fun v => if a = 0 then v = 64 else a.toNat % 2 ^ v.toNat = 0 ∧ a.toNat / 2 ^ v.toNat % 2 = 1) ∧
    s.gives (.popc xd xa) xd (fun v => v.toNat = ((List.range 64).filter a.getLsbD).length)

/-- R77: every WI instruction completes in every state with its result; a shift word whose imm[13:6] is not zero is no
instruction, and refused with ILL. -/
def Obligations.ImmediateResults : Prop :=
  (∀ (xd xa : XReg) (imm : BitVec 14) (s : State),
    let a := s.h.rx xa
    s.gives (.addi xd xa imm) xd (fun v => v = BitVec.ofInt 64 (a.toInt + imm.toInt)) ∧
    s.gives (.andi xd xa imm) xd (fun v => ∀ i, i < 64 → v.getLsbD i = (a.getLsbD i && imm.getLsbD (min i 13))) ∧
    s.gives (.ori xd xa imm) xd (fun v => ∀ i, i < 64 → v.getLsbD i = (a.getLsbD i || imm.getLsbD (min i 13))) ∧
    s.gives (.xori xd xa imm) xd (fun v => ∀ i, i < 64 → v.getLsbD i = (a.getLsbD i != imm.getLsbD (min i 13))) ∧
    s.gives (.slti xd xa imm) xd (fun v => v = if a.toInt < imm.toInt then 1 else 0) ∧
    s.gives (.sltiu xd xa imm) xd (fun v => v = if a.toNat < (imm.signExtend 64).toNat then 1 else 0)) ∧
  (∀ (xd xa : XReg) (n : BitVec 6) (s : State),
    let a := s.h.rx xa
    s.gives (.slli xd xa n) xd (fun v => v.toNat = a.toNat * 2 ^ n.toNat % 2 ^ 64) ∧
    s.gives (.srli xd xa n) xd (fun v => v.toNat = a.toNat / 2 ^ n.toNat) ∧
    s.gives (.srai xd xa n) xd (fun v => v.toInt = a.toInt / 2 ^ n.toNat)) ∧
  (∀ (xd xa : XReg) (imm : BitVec 14) (s : State), imm.toNat / 64 ≠ 0 →
    ∀ fn : BitVec 4, fn = 6 ∨ fn = 7 ∨ fn = 8 →
      decodeWord (packWI xd xa fn imm) = .nonInstructionEncoding (packWI xd xa fn imm) ∧
      exec (.nonInstructionEncoding (packWI xd xa fn imm)) s = s.trapped .ill s.h.pc)

/-- LUI and ADDPC (R78) complete in every state; a LUI followed by an ADDI builds every constant from −2³⁶ − 8,192 to
2³⁶ − 8,193. -/
def Obligations.UpperImmediates : Prop :=
  (∀ (xd : XReg) (imm : BitVec 23) (s : State),
    s.gives (.lui xd imm) xd (fun v => v.toInt = imm.toInt * 2 ^ 14) ∧
    s.gives (.addpc xd imm) xd (fun v => v = s.h.pc + BitVec.ofInt 64 (imm.toInt * 2 ^ 14))) ∧
  (∀ c : Int, -(2 ^ 36) - 8192 ≤ c → c ≤ 2 ^ 36 - 8193 →
    ∃ (hi : BitVec 23) (lo : BitVec 14), immUpper hi + immWI lo = BitVec.ofInt 64 c)

/-- R79: the three bit-field words; with pos and len in range each completes in every state, outside it each is refused with ILL,
and BINS to x0 changes no register.
R80 and R81: the funnel shifts and BEXTV complete in every state, whatever their values. -/
def Obligations.BitFieldsAndFunnelShifts : Prop :=
  (∀ (xd xa : XReg) (pos len : BitVec 6) (s : State),
     let a := s.h.rx xa
     decodeWord (packField 0 xd xa pos len) = .bext xd xa pos len ∧
     decodeWord (packField 1 xd xa pos len) = .bextu xd xa pos len ∧
     decodeWord (packField 2 xd xa pos len) = .bins xd xa pos len ∧
     (len ≠ 0 → pos.toNat + len.toNat ≤ 64 →
       s.gives (.bext xd xa pos len) xd (fun v => v.toInt = toSigned len.toNat (a.toNat / 2 ^ pos.toNat)) ∧
       s.gives (.bextu xd xa pos len) xd (fun v => v.toNat = a.toNat / 2 ^ pos.toNat % 2 ^ len.toNat) ∧
       s.gives (.bins xd xa pos len) xd (fun v => ∀ i, i < 64 → v.getLsbD i =
         if pos.toNat ≤ i ∧ i < pos.toNat + len.toNat then a.getLsbD (i - pos.toNat) else (s.h.rx xd).getLsbD i) ∧
       exec (.bins 0 xa pos len) s = .next s.advance) ∧
     (len = 0 ∨ 64 < pos.toNat + len.toNat →
       exec (.bext xd xa pos len) s = s.trapped .ill s.h.pc ∧ exec (.bextu xd xa pos len) s = s.trapped .ill s.h.pc ∧
       exec (.bins xd xa pos len) s = s.trapped .ill s.h.pc)) ∧
  (∀ (xd xa xb : XReg) (n : BitVec 6) (s : State),
     let a := (s.h.rx xa).toNat
     let b := (s.h.rx xb).toNat
     decodeWord (packFunnel 3 xd xa xb n) = .fshl xd xa xb n ∧ decodeWord (packFunnel 4 xd xa xb n) = .fshr xd xa xb n ∧
     decodeWord (0xD#4 ++ 5#3 ++ xd ++ xa ++ xb ++ 0#10) = .bextv xd xa xb ∧
     s.gives (.fshl xd xa xb n) xd (fun v => v.toNat = (a * 2 ^ 64 + b) * 2 ^ n.toNat % 2 ^ 128 / 2 ^ 64) ∧
     s.gives (.fshr xd xa xb n) xd (fun v => v.toNat = (a * 2 ^ 64 + b) / 2 ^ n.toNat % 2 ^ 64) ∧
     s.gives (.bextv xd xa xb) xd (fun v => v.toNat = a / 2 ^ (b % 64) % 2 ^ (b / 2 ^ 8 % 64)))

/-- The frame of the 42 instructions that only compute (R71, R76 to R81): a well-formed one changes X[xd] and the flow, and
nothing else. -/
def Obligations.ComputeFrame : Prop :=
  ∀ (i : Instr) (xd : XReg) (s t : State), aluDest i = some xd → scalarOk i = true → exec i s = .next t → s.frame t xd

/-! ### Scalar memory (R82 to R84, R88, R89) -/

/-- Loads (R82, R91): a load that its address lets through, and whose bytes hold no error, completes with the bytes at its place,
little-endian, extended as its name says; it arms the monitor on the line it read and clears the event bit. Its translation enters
the TLBs (R245), and the hart's own writes to those bytes have been performed before it, unless a port of its die serves it (R244, R269);
beside these and the wake of harts that watched those lines it leaves all else (the frame).
Where the rules leave a point open, it follows the model's reading in log 45. -/
def Obligations.LoadsReadLittleEndian : Prop :=
  ∀ (xd xa : XReg) (off : BitVec 15) (s : State) (p : Place),
    let va := s.h.rx xa + off.signExtend 64
    let b := s.scalarByte p.key
    let done := fun (n : Nat) (v : Word) => (((s.enteredScalar va).afterRead (.scalar s.h.id) p.key n).mapH (fun h =>
      { h with monitor := some (p.key / 64), event := false })).setX xd v
    (s.reaches .load bpRead va 1 p →
      exec (.ldb xd xa off) s = .next (done 1 ((b 0).signExtend 64)).advance ∧
      exec (.ldbu xd xa off) s = .next (done 1 ((b 0).setWidth 64)).advance) ∧
    (s.reaches .load bpRead va 2 p →
      exec (.ldh xd xa off) s = .next (done 2 ((b 1 ++ b 0).signExtend 64)).advance ∧
      exec (.ldhu xd xa off) s = .next (done 2 ((b 1 ++ b 0).setWidth 64)).advance) ∧
    (s.reaches .load bpRead va 4 p →
      exec (.ldw xd xa off) s = .next (done 4 ((b 3 ++ b 2 ++ b 1 ++ b 0).signExtend 64)).advance ∧
      exec (.ldwu xd xa off) s = .next (done 4 ((b 3 ++ b 2 ++ b 1 ++ b 0).setWidth 64)).advance) ∧
    (s.reaches .load bpRead va 8 p →
      exec (.ldd xd xa off) s = .next (done 8 (b 7 ++ b 6 ++ b 5 ++ b 4 ++ b 3 ++ b 2 ++ b 1 ++ b 0)).advance) ∧
    ∀ n v, s.mem.wf = true → s.dev.lost = 0 → s.readFrame (done n v).advance xd

/-- Stores not buffered by a strip (R82, R84, R244): a store that its address lets through completes; the hart's own scalar agent
then reads the low bytes of X[xs] at every home of the access and every other byte as before; its vector agent reads every other
byte as before; X registers, the vector state, the special registers and the accumulators are unchanged.
Where the rules leave a point open, it follows the model's reading in log 45. -/
def Obligations.StoresWriteTheirBytes : Prop :=
  ∀ (i : Instr) (xs xa : XReg) (off : BitVec 15) (n : Nat) (s : State) (p : Place),
    (i = .stb xs xa off ∧ n = 1) ∨ (i = .sth xs xa off ∧ n = 2) ∨ (i = .stw xs xa off ∧ n = 4) ∨ (i = .std xs xa off ∧ n = 8) →
    s.reaches .store bpWrite (s.h.rx xa + off.signExtend 64) n p →
    (s.h.loops.opn = false ∨ s.h.loops.sealed = true) → s.h.closed = [] → s.h.ssb = [] →
    ∃ t, exec i s = .next t ∧
      (∀ j k, j < n → k ∈ p.homes j → t.readByte false k = byteOf (s.h.rx xs) j) ∧
      (∀ vector k, (∀ j, j < n → k ∉ p.homes j) → t.readByte vector k = s.readByte vector k) ∧
      t.h.x = s.h.x ∧ s.h.sameSpecial t.h ∧ t.core = { s.core with tlb := t.core.tlb } ∧ t.harts = s.harts ∧ t.cores = s.cores ∧
      t.mem = s.mem

/-- Where a store goes by the state of the strip (R157 to R159): into the strip store buffer of an open, unsealed strip while an
entry is free, where the hart reads it back; accepted for memory when no strip is open or the strip is sealed, behind the stores
of strips already closed; and where the buffer is full the strip seals first. A claim from the number at the address that a discarded head has
left the hart ends (log 65; FarmClaims says which). -/
def Obligations.StoresByStripState : Prop :=
  ∀ (i : Instr) (xs xa : XReg) (off : BitVec 15) (n : Nat) (s : State) (p : Place),
    (i = .stb xs xa off ∧ n = 1) ∨ (i = .sth xs xa off ∧ n = 2) ∨ (i = .stw xs xa off ∧ n = 4) ∨ (i = .std xs xa off ∧ n = 8) →
    s.reaches .store bpWrite (s.h.rx xa + off.signExtend 64) n p →
    let va := s.h.rx xa + off.signExtend 64
    let st := scalarStoreOf s.h.ctxid va p n (s.h.rx xs)
    let u := s.enteredScalar va
    let done := fun (t : State) => (t.mapH (·.renumber s.h.ctxid va)).advance
    let kept := u.mapH (fun h => { h with ssb := h.ssb ++ [st] })
    (s.h.loops.opn = true → s.h.loops.sealed = false → (chunksOf (s.h.ssb ++ [st])).length ≤ 1024 →
      exec i s = .next (done kept) ∧ ∀ j, j < n → (done kept).readByte false (p.key + j) = byteOf (s.h.rx xs) j) ∧
    (s.h.loops.opn = true → s.h.loops.sealed = false → 1024 < (chunksOf (s.h.ssb ++ [st])).length →
      exec i s = .next (done ((u.commitSsb.mapH (fun h => { h with loops := { h.loops with sealed := true } })).accept
        (.scalar s.h.id) st false))) ∧
    (s.h.loops.opn = false ∨ s.h.loops.sealed = true → exec i s = .next (done (u.flushClosed.accept (.scalar s.h.id) st false)))

/-- Atomics (R88, R159): an atomic that its address lets through completes: its translation enters the TLBs, an open strip seals, the accesses
that its order holds before it and those to its bytes are performed, and the location then goes from its old value to the new one in one
indivisible access; X[xd] receives
the old value, sign-extended, and the monitor is armed on the line.
Where the rules leave a point open, it follows the model's reading in log 8. -/
def Obligations.AtomicsExchangeInPlace : Prop :=
  ∀ (xd xa xb : XReg) (z : AmoSize) (o : AmoOrder) (c : Scope) (s : State) (p : Place),
    let n := amoBytes z
    s.reaches .atomic bpBoth (s.h.rx xa) n p →
    let s1 := ((s.enteredScalar (s.h.rx xa)).seal.orderAtomic o c).beforeHome (.scalar s.h.id) p.key n
    let old := readLE s1.mem.read p.key n
    let b := (s.h.rx xb).toNat % 2 ^ (8 * n)
    let out : Nat → Out := fun new => .next
      (((s1.perform (.scalar s.h.id) (cellsOf p.key n new)).mapH (fun h =>
        { h with monitor := some (p.key / 64), event := false })).setX xd (BitVec.ofInt 64 (toSigned (8 * n) old))).advance
    exec (.amoswap xd xa xb z o c) s = out b ∧
    exec (.amoadd xd xa xb z o c) s = out ((old + b) % 2 ^ (8 * n)) ∧
    exec (.amoand xd xa xb z o c) s = out (old &&& b) ∧
    exec (.amoor xd xa xb z o c) s = out (old ||| b) ∧
    exec (.amoxor xd xa xb z o c) s = out (old ^^^ b) ∧
    exec (.amomin xd xa xb z o c) s = out (if toSigned (8 * n) old ≤ toSigned (8 * n) b then old else b) ∧
    exec (.amomax xd xa xb z o c) s = out (if toSigned (8 * n) old ≤ toSigned (8 * n) b then b else old) ∧
    exec (.amominu xd xa xb z o c) s = out (min old b) ∧
    exec (.amomaxu xd xa xb z o c) s = out (max old b) ∧
    exec (.amocas xd xa xb z o c) s = out (if old = (s.h.rx xd).toNat % 2 ^ (8 * n) then b else old)

/-- A write at its home (R82, R237, R278): in a canonical memory, the bytes written read as written, every other byte as
before, and the form stays canonical.
Where the rules leave a point open, it follows the model's reading in log 4. -/
def Obligations.WritesReadBack : Prop :=
  ∀ (s : State) (ag : Agent) (k n v : Nat), s.mem.wf = true →
    let t := s.perform ag (cellsOf k n v)
    t.mem.wf = true ∧ readLE t.mem.read k n = v % 2 ^ (8 * n) ∧ ∀ j, j < k ∨ k + n ≤ j → t.mem.read j = s.mem.read j

/-- The refusals of scalar accesses (R83): a misaligned address with ALIGN, then a denied one with PAGE or PERM; EVAL is the address
and nothing is read or written before the trap; then a byte that a breakpoint matches, with DBG, the lowest matching one in BP and that byte's
address in EVAL, a snapshot triggered where one of those that match asks for it (R301, R303); a load whose bytes, but for those that the hart's own
stores give (R158), hold an error, or lie on a lost die, is an abort completion (R296), which
the error log of the die that finds it records: which die that is, its own where that of the bytes is lost, is the model's reading (log 61).
The local window (R83, R205): an address in it reaches the SDM or the VSP of the hart's own core untranslated, at every
offset that exists, and is refused with PAGE at every other; no instruction is fetched from it.
Where the rules leave a point open, it follows the model's reading in log 61. -/
def Obligations.ScalarAddresses : Prop :=
  (∀ (i : Instr) (a : Access) (va : Word) (n : Nat) (s : State), scalarAccess s i = some (a, va, n) →
     (va.toNat % n ≠ 0 → exec i s = s.trapped .align va) ∧
     (va.toNat % n = 0 → s.scalarPlace a va = .error .page → exec i s = (s.enteredScalar va).trapped .page va) ∧
     (va.toNat % n = 0 → s.scalarPlace a va = .error .perm → exec i s = (s.enteredScalar va).trapped .perm va) ∧
     (∀ p b x, va.toNat % n = 0 → s.scalarPlace a va = .ok p → s.h.bpRange a.kinds va n = some (b, x) →
       let u := s.enteredScalar va
       exec i s = .next ((if s.h.bpSnaps a.kinds va n then u.triggerSnapshot else u).raise
         { cause := .dbg, bp := b, epc := s.h.pc, eval := x, eelem := 0, elane := 0 }) ∧
       (∃ j, j < n ∧ x = va + BitVec.ofNat 64 j) ∧ b < 8 ∧ s.h.bpMatches a.kinds x b = true ∧
       ∀ c j, c < b → j < n → s.h.bpMatches a.kinds (va + BitVec.ofNat 64 j) c = false) ∧
     (∀ p, a = .load → va.toNat % n = 0 → s.scalarPlace a va = .ok p → s.h.bpRange bpRead va n = none → s.readAborts false p.key n = true →
       exec i s = .next ((s.enteredScalar va).aborted (s.refusal .data va)))) ∧
  (∀ (s : State) (vector : Bool) (k n : Nat), s.readAborts vector k n = true → s.aborts k n = true ∧ ∃ i, i < n ∧ s.buffered (k + i) = false) ∧
  (∀ (s : State) (a : Access) (off : Nat), off < 2 ^ 36 →
     let va := BitVec.ofNat 64 (0xFFFFFFF000000000 + off)
     s.scalarPlace a va = (if off < 0x10000 ∨ (0x200000 ≤ off ∧ off < 0x400000)
       then .ok { key := localKey (s.h.id / 4) off, repl := false, atom := true } else .error .page) ∧
     s.fetchWord va = .error .perm)

/-! ### Branches, jumps, loops -/

/-- Conditional branches (R85, R149, R153): where the comparison does not hold the hart goes on at the next word; where it holds
and the target is allowed, at A + 4 · sext(off15); a target outside a body is refused with LESC. While no level is active
every target is allowed and nothing but the PC changes.
Where the rules leave a point open, it follows the model's reading in log 24. -/
def Obligations.BranchesCompare : Prop :=
  ∀ (xa xb : XReg) (off : BitVec 15) (s : State),
    let a := s.h.rx xa
    let b := s.h.rx xb
    let target := s.h.pc + BitVec.ofInt 64 (4 * off.toInt)
    let goes := fun (i : Instr) (c : Prop) =>
      (¬ c → exec i s = .next s.advance) ∧ (c → s.h.loops.targetOk target = true → exec i s = .next (s.jumpTo target)) ∧
      (c → s.h.loops.targetOk target = false → exec i s = s.trapped .lesc 0) ∧
      (s.h.loops.lact = 0 → (c → exec i s = .next (s.mapH (fun h => { h with pc := target }))) ∧
        (¬ c → exec i s = .next (s.mapH (fun h => { h with pc := h.pc + 4 }))))
    goes (.beq xa xb off) (a = b) ∧ goes (.bne xa xb off) (a ≠ b) ∧ goes (.blt xa xb off) (a.toInt < b.toInt) ∧
    goes (.bge xa xb off) (b.toInt ≤ a.toInt) ∧ goes (.bltu xa xb off) (a.toNat < b.toNat) ∧
    goes (.bgeu xa xb off) (b.toNat ≤ a.toNat)

/-- JAL and JALR (R86, R87, R153): the link is A + 4 and is written after X[xa] is read; a JAL to x1 is a call, which deepens CDEPTH and
takes no back edge; the exact word jalr x0, x1, 0 is a return; no other jump changes CDEPTH; a target of JALR that is no multiple
of 4 is refused with ALIGN.
Where the rules leave a point open, it follows the model's reading in log 24, log 26, log 27. -/
def Obligations.JumpsAndCalls : Prop :=
  ∀ (xd xa : XReg) (s : State),
    let link := s.h.pc + 4
    (∀ off : BitVec 23,
      let target := s.h.pc + BitVec.ofInt 64 (4 * off.toInt)
      exec (.jal 1 off) s = .next ((s.setX 1 link).mapH (fun h =>
        { h with pc := target, loops := { h.loops with cdepth := h.loops.cdepth + 1 } })) ∧
      (xd ≠ 1 → s.h.loops.targetOk target = true → exec (.jal xd off) s = .next ((s.setX xd link).jumpTo target)) ∧
      (xd ≠ 1 → s.h.loops.targetOk target = false → exec (.jal xd off) s = s.trapped .lesc 0)) ∧
    (∀ off : BitVec 18,
      let target := s.h.rx xa + BitVec.ofInt 64 off.toInt
      (target.toNat % 4 ≠ 0 → exec (.jalr xd xa off) s = s.trapped .align target) ∧
      (target.toNat % 4 = 0 → ¬ (xd = 0 ∧ xa = 1 ∧ off = 0) →
        (s.h.loops.targetOk target = true → exec (.jalr xd xa off) s = .next ((s.setX xd link).jumpTo target)) ∧
        (s.h.loops.targetOk target = false → exec (.jalr xd xa off) s = s.trapped .lesc 0))) ∧
    ((s.h.rx 1).toNat % 4 = 0 →
      (s.h.loops.here = [] → exec (.jalr 0 1 0) s =
        .next ((s.mapH (fun h => { h with loops := { h.loops with cdepth := h.loops.cdepth - 1 } })).jumpTo (s.h.rx 1))) ∧
      (s.h.loops.here ≠ [] → exec (.jalr 0 1 0) s = s.trapped .lesc 0)) ∧
    ∀ t target, t = s.jumpTo target → t.h.loops.cdepth = s.h.loops.cdepth ∧ t.h.x = s.h.x

/-- LOOP and LOOPS (R147, R148): a declaration that the rules of R148 allow enters a level with the fields of its word, its stage
predicate at 1, RRB cleared where it rotates; a LOOP with X[xa] = 0, and a LOOPS with X[xa] ≤ 0 that is no farm, skip to LEND;
a declaration that breaks R148 is refused with LNEST.
Where the rules leave a point open, it follows the model's reading in log 24. -/
def Obligations.LoopDeclarations : Prop :=
  ∀ (xa : XReg) (st : BitVec 3) (rot farm : Bool) (len : BitVec 16) (s : State), len ≠ 0 →
    let lend := s.h.pc + 4 + BitVec.ofNat 64 (4 * len.toNat)
    let n := s.h.loops.depth
    let entered := fun (i : Instr) (strip fm : Bool) (cnt : Word) =>
      ∃ t, exec i s = .next t ∧ t = s.mapH (fun h => { h with pc := t.h.pc, loops := t.h.loops }) ∧ t.h.pc = s.h.pc + 4 ∧
        t.h.loops.lact = s.h.loops.lact ||| BitVec.ofNat 4 (2 ^ n) ∧
        t.h.loops.rrb = (if rot then 0 else s.h.loops.rrb) ∧ t.h.loops.cdepth = s.h.loops.cdepth ∧
        ∀ l, l = t.h.loops.level n → l.lbeg = s.h.pc + 4 ∧ l.lend = lend ∧ l.lcnt = cnt ∧ l.stages = st.toNat + 1 ∧
          l.rot = rot ∧ l.strip = strip ∧ l.farm = fm ∧ l.ldep = s.h.loops.cdepth ∧ l.xreg = xa ∧ l.svl = 0 ∧ l.sp = 1
    s.h.loops.levels.length = 4 →
    (s.h.loops.mayDeclare rot false lend = true →
      (s.h.rx xa ≠ 0 → entered (.loop xa st rot len) false false (s.h.rx xa)) ∧
      (s.h.rx xa = 0 → exec (.loop xa st rot len) s = .next (s.arriveAt lend))) ∧
    (s.h.loops.mayDeclare rot true lend = true →
      (farm = true ∨ 0 < (s.h.rx xa).toInt → entered (.loops xa st rot farm len) true farm 0) ∧
      (farm = false → (s.h.rx xa).toInt ≤ 0 → exec (.loops xa st rot farm len) s = .next (s.arriveAt lend))) ∧
    (s.h.loops.mayDeclare rot false lend = false → exec (.loop xa st rot len) s = s.trapped .lnest 0) ∧
    (s.h.loops.mayDeclare rot true lend = false → exec (.loops xa st rot farm len) s = s.trapped .lnest 0)

/-- LEXIT, LBRK and LPOP (R153 to R156): LEXIT with no bit of Kn set below VL has no effect; otherwise it records the smallest such
element, ends the innermost level and goes on at its LEND; LBRK and LPOP end the levels they name and go on at their target or at
the next word; levels that are not all at the current depth are refused with LESC, and so is an LBRK whose target lies outside the body of a
level that stays active at the current depth.
Where the rules leave a point open, it follows the model's reading in log 24 and log 27. -/
def Obligations.LoopExits : Prop :=
  (∀ (kn : BitVec 4) (s : State), kn.toNat < 12 →
    let k := s.h.k.getD kn.toNat 0
    ((∀ e, e < s.h.vln → k.getLsbD e = false) → exec (.lexit kn) s = .next s.advance) ∧
    (∀ e n l, e < s.h.vln → k.getLsbD e = true → (∀ f, f < e → k.getLsbD f = false) →
      (s.h.loops.inner = some (n, l) → exec (.lexit kn) s =
        .next (((s.mapH (fun h => { h with xexit := BitVec.ofNat 64 e })).endLevel n).arriveAt l.lend)) ∧
      (s.h.loops.inner = none → exec (.lexit kn) s = s.trapped .lesc 0))) ∧
  (∀ (lv : BitVec 2) (off : BitVec 16) (s : State),
    let k := lv.toNat + 1
    let target := s.h.pc + BitVec.ofInt 64 (4 * off.toInt)
    (s.h.loops.mayPop k = true → exec (.lpop lv) s = .next (s.pop k).advance) ∧
    (s.h.loops.mayPop k = true → (∀ p ∈ s.h.loops.here, p.1 < s.h.loops.depth - k → p.2.inBody target = true) →
      exec (.lbrk lv off) s = .next ((s.pop k).mapH (fun h => { h with pc := target }))) ∧
    (s.h.loops.mayPop k = true → (∃ p ∈ s.h.loops.here, p.1 < s.h.loops.depth - k ∧ p.2.inBody target = false) →
      exec (.lbrk lv off) s = s.trapped .lesc 0) ∧
    (s.h.loops.mayPop k = false → exec (.lpop lv) s = s.trapped .lesc 0 ∧ exec (.lbrk lv off) s = s.trapped .lesc 0))

/-- The back edge of one level that ends nothing around it (R150): a LOOP level counts down; a LOOPS level keeps LCNT and goes on while
X[XREG], read there, is positive, a farm while its last head left an SVL that is not 0. The hart goes back to LBEG while a stage is in
flight; the level's predicate shifts in whether another iteration starts; RRB steps by 30 modulo 32, held without its bit 0, where the
level rotates. When no stage is left the level ends, a strip of it closes with its stores on their way, and the hart goes on at LEND.
The claim of a farm that goes on is that of its next strip head (FarmClaims). -/
def Obligations.BackEdges : Prop :=
  ∀ (s : State) (l : Level), s.h.loops.levels.length = 4 → s.h.loops.lact = 1 → s.h.loops.inner = some (0, l) →
    l.inBody s.h.pc = true → s.h.pc + 4 = l.lend →
    let cnt := if l.strip = true ∨ l.lcnt = 0 then l.lcnt else l.lcnt - 1
    let more : Bool := if l.strip then (if l.farm then decide (0 < l.svl) else decide (0 < (s.h.rx l.xreg).toInt)) else decide (cnt ≠ 0)
    let sp := (2 * l.sp.toNat + more.toNat) % 2 ^ l.stages
    let t := s.advance
    (sp ≠ 0 → t.h.pc = l.lbeg ∧ t.h.loops = { s.h.loops with levels := t.h.loops.levels, rrb := t.h.loops.rrb } ∧
      t.h.loops.level 0 = { l with lcnt := cnt, sp := BitVec.ofNat 8 sp } ∧
      2 * t.h.loops.rrb.toNat = (if l.rot then (2 * s.h.loops.rrb.toNat + 30) % 32 else 2 * s.h.loops.rrb.toNat) ∧
      t.h.ssb = s.h.ssb ∧ t.h.ckpt = s.h.ckpt) ∧
    (sp = 0 → t.h.pc = l.lend ∧ t.h.loops.lact = 0 ∧ t.h.loops.level 0 = freeLevel ∧
      t.h.loops.rrb = (if l.rot then 0 else s.h.loops.rrb) ∧
      (l.strip = true → t.h.loops.opn = false ∧ t.h.loops.sealed = false ∧ t.h.loops.replay = false ∧ t.h.ckpt = none ∧
        t.h.ssb = [] ∧ t.h.closed = s.h.closed ++ s.h.ssb) ∧
      (l.strip = false → t.h.loops.opn = s.h.loops.opn ∧ t.h.ssb = s.h.ssb ∧ t.h.ckpt = s.h.ckpt)) ∧
    t.h.x = s.h.x ∧ t.mem = s.mem

/-! ### CSRs -/

/-- CSR instructions (R75): an absent CSR, a write that no mode may make, an access that the mode may not make and a value that the
CSR does not accept are refused in this order; else the old value goes to X[xd] and, if the instruction writes, the CSR takes
its effect first. CSRRS and CSRRC with xa = x0, and the CSRRWI of R59 that changes nothing, write nothing.
Where the rules leave a point open, it follows the model's reading in log 16. -/
def Obligations.CsrInstructions : Prop :=
  ∀ (i : Instr) (s : State) (xd : XReg) (n : Nat) (w : Bool) (v : Word), csrForm s i = some (xd, n, w, v) →
    let old := s.readCsr n
    let barred := s.h.trap.sup = false ∧ (csrSupervisor n = true ∨ (w = true ∧ csrUserWrite n = false))
    (csrExists n = false → exec i s = s.trapped .ill s.h.pc) ∧
    (csrExists n = true → w = true → csrReadOnly n = true → exec i s = s.trapped .ill s.h.pc) ∧
    (csrExists n = true → ¬ (w = true ∧ csrReadOnly n = true) → barred → exec i s = s.trapped .perm 0) ∧
    (csrExists n = true → ¬ (w = true ∧ csrReadOnly n = true) → ¬ barred →
      (w = false → exec i s = .next (s.setX xd old).advance) ∧
      (w = true → ∀ t, s.writeValue n v = .ok t → exec i s = .next (t.setX xd old).advance) ∧
      (w = true → ∀ c, s.writeValue n v = .error c → exec i s = s.trapped c (s.csrEval c)))

/-- A CSR reads as what a write that was accepted wrote (R75 step 4, R287), on every CSR but VL (the smaller of the value and VLCAP,
R60), RRB and its shadow (bit 0 is ignored, Table 8.2), the shadow SSBUSE (R164) and ESHADOW (R287); a refused write changes nothing beside the trap
that reports it: X registers, vector state, the CSRs that trap entry does not write, and memory stay.
The CSRs that no write changes read as Tables 5.2, 5.3 and 4.5 say, in either mode (R74, R58, R158): HARTID the hart, its core and its die, GROUPID,
CYCLE and TIME their counts, VLCAP, LANEDIS that of the core, SSBUSE the state of the open strip and the entries it has in use.
Where the rules leave a point open, it follows the model's reading in log 1, log 15 and log 51. -/
def Obligations.CsrWritesReadBack : Prop :=
  (∀ (s t : State) (n : Nat) (v : Word), s.h.shaped = true → s.csrWrite n v = .ok t →
    (n = 0x000 → t.readCsr n = BitVec.ofNat 64 (min v.toNat s.h.vlcap.toNat)) ∧
    (n ∉ [0x000, 0x021, 0x108, 0x121, 0x135] → t.readCsr n = v) ∧
    t.h.pc = s.h.pc ∧ t.h.x = s.h.x ∧ t.mem = s.mem ∧ t.dev = s.dev) ∧
  (∀ (i : Instr) (s : State) (xd : XReg) (n : Nat) (v : Word), csrForm s i = some (xd, n, true, v) → s.h.trap.te = true →
    (csrExists n = false ∨ csrReadOnly n = true ∨ (s.h.trap.sup = false ∧ (csrSupervisor n = true ∨ csrUserWrite n = false)) ∨
      ∃ c, s.writeValue n v = .error c) →
    ∃ t, exec i s = .next t ∧ t.h.pc = s.h.trap.tvec ∧ t.h.trap.epc = s.h.pc ∧ t.h.x = s.h.x ∧ t.h.v = s.h.v ∧ t.h.k = s.h.k ∧
      t.h.f = s.h.f ∧ t.h.hf = s.h.hf ∧ t.mem = s.mem ∧
      ∀ m ∈ [0x000, 0x001, 0x002, 0x003, 0x004, 0x005, 0x006, 0x007, 0x010, 0x011, 0x012, 0x013, 0x014, 0x040, 0x041, 0x042, 0x101, 0x107, 0x300,
        0x301, 0x302] ++ (List.range 48).map (0x080 + ·) ++ (List.range 16).map (0x200 + ·), t.readCsr m = s.readCsr m) ∧
  (∀ (xd : XReg) (c : BitVec 12) (s : State),
    (c.toNat ∈ [0x003, 0x010, 0x011, 0x013, 0x014, 0x035, 0x301] → exec (.csrrs xd 0 c) s = .next (s.setX xd (s.readCsr c.toNat)).advance) ∧
    (let id := s.readCsr 0x010
     (id.extractLsb' 0 2).toNat = s.h.id % 4 ∧ (id.extractLsb' 2 9).toNat = s.h.id / 4 % 512 ∧ (id.extractLsb' 11 3).toNat = dieOfHart s.h.id % 8 ∧
     id.extractLsb' 14 50 = 0) ∧
    s.readCsr 0x011 = s.h.groupid.setWidth 64 ∧ s.readCsr 0x013 = BitVec.ofNat 64 s.dev.cycle ∧ s.readCsr 0x014 = BitVec.ofNat 64 s.dev.time ∧
    s.readCsr 0x003 = s.h.vlcap.setWidth 64 ∧ s.readCsr 0x301 = s.core.lanedis.setWidth 64 ∧
    (let use := s.readCsr 0x035
     (chunksOf s.h.ssb).length ≤ 1024 →
       (use.extractLsb' 0 11).toNat = (chunksOf s.h.ssb).length ∧ use.getLsbD 11 = s.h.loops.replay ∧ use.extractLsb' 12 4 = s.h.loops.rewinds ∧
       use.getLsbD 16 = s.h.loops.sealed ∧ use.getLsbD 17 = s.h.loops.opn ∧ use.extractLsb' 18 46 = 0))

/-- The CSR writes that have an effect of their own (R57, R60, R102, R145, R164, R200, R287, R297): each completes for the modes and
values that its rule accepts, with that effect and no other.
Where the rules leave a point open, it follows the model's reading in log 3, log 15 and log 51. -/
def Obligations.CsrWriteEvents : Prop :=
  ∀ (v : Word) (s : State),
    (s.h.trap.sup = true → vtConsistent v = true → exec (.vtWrite v) s =
      .next ((s.regrant.setVt (v.setWidth 11)).mapH (fun h => { h with vl := BitVec.ofNat 13 (min h.vl.toNat h.vlcap.toNat) }))) ∧
    (s.h.trap.sup = true → exec (.vlWrite v) s =
      .next (s.mapH (fun h => { h with vl := BitVec.ofNat 13 (min v.toNat h.vlcap.toNat) }))) ∧
    (s.h.trap.sup = true → exec .grantWriteZero s = .next s.dropGrant) ∧
    (v.toNat < 2 ^ 12 → (v.getLsbD 2 = true → v.toNat % 4 ≠ 0) → (v.getLsbD 2 = false → v.toNat / 8 = 0) →
      exec (.vmtWrite v) s = .next (s.mapH (fun h => { h with vmt := v.setWidth 12 }))) ∧
    (s.h.trap.sup = true →
      exec (.vstateWrite 0) s = .next (s.mapH (fun h => { h with vstate := 0 })) ∧
      exec (.vstateWrite 1) s = .next (s.mapH (fun h =>
        { h with vstate := 1, vdirty := 0, kdirty := 0, v := h.v.map (fun _ => { bits := 0, tag := 0 }), k := h.k.map (fun _ => 0) })) ∧
      exec (.vstateWrite 2) s = .next (s.mapH (fun h => { h with vstate := 2, vdirty := 0, kdirty := 0 })) ∧
      exec (.vstateWrite 3) s = .next (s.mapH (fun h => { h with vstate := 3 }))) ∧
    (∀ r : BitVec 6, s.h.trap.sup = true → r.toNat < 48 → v.toNat ≤ 8192 → exec (.vtagWrite r v) s =
      .next (s.mapH (fun h => { h with v := modAt (·.retag v.toNat) r.toNat h.v }))) ∧
    (∀ (c : BitVec 12) (l : Loops), s.h.trap.sup = true → 0x020 ≤ c.toNat → c.toNat ≤ 0x034 →
      s.h.loops.writeCsr (c.toNat - 0x020) v = .ok l → exec (.loopCsrWrite c v) s = .next (s.mapH (fun h => { h with loops := l }))) ∧
    (∀ (c : BitVec 12) (l : Loops), s.h.trap.sup = true → 0x120 ≤ c.toNat → c.toNat ≤ 0x134 →
      s.h.shadow.writeCsr (c.toNat - 0x120) v = .ok l →
      exec (.loopCsrWrite c v) s = .next (s.mapH (fun h => { h with shadow := l }))) ∧
    (s.h.trap.sup = true → v.toNat < 2 ^ 18 → v.toNat % 2 ^ 11 = 0 → exec (.shadowSsbuseWrite v) s =
      .next (s.mapH (fun h => { h with shadow :=
        { h.shadow with opn := v.getLsbD 17, sealed := v.getLsbD 16 || v.getLsbD 17, rewinds := v.extractLsb' 12 4, replay := v.getLsbD 11 } }))) ∧
    (v.toNat < 32 → exec (.fflagsWrite v) s = .next (s.mapH (fun h => { h with fflags := v.setWidth 5 }))) ∧
    (s.h.trap.sup = true → v.toNat % 2 ^ 56 = s.shadowData → v.toNat / 2 ^ 56 ≤ 10 → exec (.eshadowSelect v) s =
      .next (s.mapH (fun h => { h with trap := { h.trap with sel := v.extractLsb' 56 8 } }))) ∧
    (s.h.trap.sup = true → v.toNat < 2 → exec (.pmodeWrite v) s = .next (s.mapH (fun h => { h with pmode := v != 0 }))) ∧
    (s.h.trap.sup = true → v.toNat < 16 → exec (.retryWrite v) s = .next (s.mapH (fun h => { h with retry := v.setWidth 4 }))) ∧
    (∀ (c : BitVec 12) (t : State), s.csrAccess c.toNat true = none → s.writeValue c.toNat v = .ok t →
      exec (.csrWrite c v) s = .next t)

/-! ### Traps and returns -/

/-- Synchronous causes (R30, R90, R288, R290, R302): TRAP with its code as EVAL, BRK, and ILL of a word that is no instruction, with
its address as EVAL. With traps enabled the hart enters the handler, the strip sealed first; with traps disabled the cause is fatal;
under a debugger BRK halts the hart.
Where the rules leave a point open, it follows the model's reading in log 24. -/
def Obligations.SynchronousCauses : Prop :=
  ∀ (s : State) (code : BitVec 14) (w : Word32),
    let info := fun (c : Cause) (v : Word) =>
      ({ cause := c, bp := 0, epc := s.h.pc, eval := v, eelem := 0, elane := 0 } : TrapInfo)
    let raised := fun (i : Instr) (c : Cause) (v : Word) =>
      (s.h.trap.te = true → exec i s = .next (s.discardQueues.seal.enter (info c v))) ∧
      (s.h.trap.te = false → exec i s = .next (s.fatal (info c v)))
    raised (.trap code) .trap (code.setWidth 64) ∧
    (¬ (w.toNat / 2 ^ 26 = 0x2C ∧ w.getLsbD 16 = true ∧ w.toNat % 2 ^ 16 ≠ 0) → raised (.nonInstructionEncoding w) .ill s.h.pc) ∧
    (w.toNat / 2 ^ 26 = 0x2C → w.getLsbD 16 = true → w.toNat % 2 ^ 16 ≠ 0 → raised (.nonInstructionEncoding w) .lnest 0) ∧
    (s.h.trap.dbga = false → raised .brk .brk 0) ∧
    (s.h.trap.dbga = true → exec .brk s = .next (s.dropAhead.mapH (fun h => { h with halted := true })))

/-- R288: what trap entry does, of any hart, and that it does nothing else. -/
def Obligations.TrapEntryEffect : Prop :=
  ∀ (s : State) (i : TrapInfo), i.bp < 8 → i.eelem < 8192 → i.elane < 32 →
    let t := s.enter i
    t.h.trap.ecause.toNat % 256 = i.cause.code.toNat ∧ t.h.trap.ecause.getLsbD 8 = i.cause.async ∧
    t.h.trap.ecause.toNat / 512 = i.bp ∧ t.h.trap.epc = i.epc ∧ t.h.trap.eval = i.eval ∧
    t.h.trap.eelem.toNat = i.eelem ∧ t.h.trap.elane.toNat = i.elane ∧
    t.h.trap.psup = s.h.trap.sup ∧ t.h.trap.pte = s.h.trap.te ∧ t.h.trap.sup = true ∧ t.h.trap.te = false ∧
    t.h.trap.overrun = (s.h.trap.overrun || s.h.trap.live) ∧ t.h.trap.live = true ∧
    t.h.shadow = s.h.loops ∧ t.h.loops = clearLoops ∧ t.h.monitor = none ∧ t.h.event = false ∧ t.h.pc = s.h.trap.tvec ∧
    t = s.mapH (fun h => { h with trap := t.h.trap, shadow := t.h.shadow, loops := t.h.loops, monitor := none, event := false,
                                  pc := t.h.pc, ckpt := none, taking := none, wait := .none }) ∧
    t.h.trap = { s.h.trap with ecause := t.h.trap.ecause, epc := i.epc, eval := i.eval, eelem := t.h.trap.eelem,
                               elane := t.h.trap.elane, psup := s.h.trap.sup, pte := s.h.trap.te, sup := true, te := false,
                               overrun := t.h.trap.overrun, live := true }

/-- R289 and R90: ERET in supervisor mode restores PC, mode, TE and the loop CSRs, clears LIVE, sets the event bit, and takes SKIP
for the word it resumes; in user mode it is refused with PERM. The strip store buffer is empty at an ERET (R164): a strip of the
handler that is still open closes first (log 15). -/
def Obligations.TrapReturn : Prop :=
  ∀ s : State,
    (s.h.trap.sup = true → exec .eret s = .next ((if s.h.loops.opn then s.commitSsb else s).mapH (fun h => { h with
      pc := h.trap.epc, loops := h.shadow, ckpt := none, event := true, skipNow := h.trap.skip,
      trap := { h.trap with sup := h.trap.psup, te := h.trap.pte, live := false, skip := false } }))) ∧
    (s.h.trap.sup = false → exec .eret s = s.trapped .perm 0)

/-- YIELD, SNAP, IFENCE and FENCE complete (R92, R271, R272, R303): YIELD moves only the round-robin pointers; SNAP stamps a snapshot of
the device with TIME plus 64, or, while one is held or on its way, adds 1 to MISSED on every die (one that holds an error becomes 1, and the log
says so: log 69), and beside that changes only the event bits of harts that watch those bytes; IFENCE seals an open strip, performs the hart's stores and drops the words fetched for it; FENCE, once
what it waits for has settled, seals, performs the hart's own part of its earlier set and puts the rest of it before the hart's later
accesses, and waits until then.
Where the rules leave a point open, it follows the model's reading in log 8, log 13 and log 69. -/
def Obligations.OrderingInstructions : Prop :=
  ∀ (s : State) (k : FenceKind) (c : Scope),
    exec .yield s = .next (s.mapCore (fun q => { q with rrGrant := (s.h.id % 4 + 1) % 4, rrIssue := (s.h.id % 4 + 1) % 4 })).advance ∧
    (let t := s.triggerSnapshot
     let missed := s.dev.snapHeld || s.dev.snapshot.isSome
     let slot := fun d => windowKey d 0x10080
     exec .snap s = .next t.advance ∧ t.h.unwoken = s.h.unwoken ∧ t.core = s.core ∧ t.cores = s.cores ∧
     t.harts.map Hart.unwoken = s.harts.map Hart.unwoken ∧
     let clean := missed = true → ∀ d, d < 6 → s.poisoned (slot d) 4 = false
     t.dev = { s.dev with snapshot := if missed then s.dev.snapshot else some (s.dev.time + 64), poison := t.dev.poison, errors := t.dev.errors } ∧
     (clean → t.dev.errors = s.dev.errors) ∧
     (s.mem.wf = true →
       (clean → ∀ k, (∀ d i, d < 6 → i < (if missed then 4 else 8) → k ≠ slot d + i) → t.mem.read k = s.mem.read k) ∧
       (missed = false → ∀ d, d < 6 → readLE t.mem.read (slot d) 8 = 0) ∧
       (missed = true → ∀ d, d < 6 → readLE t.mem.read (slot d) 4 =
         if s.poisoned (slot d) 4 then 1 else (readLE s.mem.read (slot d) 4 + 1) % 2 ^ 32) ∧
       (missed = true → ∀ d, d < 6 → s.poisoned (slot d) 4 = true → ∃ e ∈ t.dev.errors, e.kind = .abort ∧ e.die = d ∧ e.location = slot d))) ∧
    exec .ifence s = .next ((s.seal.order true true).mapCore (Core.discardFetched (s.h.id % 4))).advance ∧
    (s.seal.h.fenceReady k = true →
      exec (.fence k c) s = .next (s.seal.fenceOrder c (k == .sv || k == .all) (k != .sv)).advance) ∧
    (s.seal.h.fenceReady k = false → exec (.fence k c) s = .next (s.seal.mapH (fun h => { h with wait := .fence k })))

/-- WFE and the events that end its wait (R91): WFE arms the monitor on the line of its operand without touching the event bit; with
the bit set it completes at once and clears it, else it waits; a wake completes it when the bit is set, and 65,536 counts of TIME
after the wait began the bit is set.
The other events that let a hart go on (R95, R157, R209, R232, R233, R273): an ordered wait is over once the queues are empty, a
fence's once what it asks for has settled; the stores of closed strips are accepted for memory in program order.
Where the rules leave a point open, it follows the model's reading in log 8 and log 10. -/
def Obligations.WaitsAndReleases : Prop :=
  ((∀ (xa : XReg) (s : State) (p : Place),
     let l := BitVec.ofNat 64 ((s.h.rx xa).toNat / 64 * 64)
     let armed := (s.enteredScalar l).mapH (fun h => { h with monitor := some (p.key / 64) })
     s.scalarPlace .load l = .ok p → s.h.bpRange bpRead l 64 = none → s.readAborts false p.key 64 = false →
     (s.h.event = true → exec (.wfe xa) s = .next (armed.mapH (fun h => { h with event := false })).advance) ∧
     (s.h.event = false → exec (.wfe xa) s = .next (armed.mapH (fun h => { h with wait := .wfe s.dev.time })))) ∧
   (∀ (s : State) (t : Nat), s.h.wait = .wfe t →
     (s.h.event = true → exec (.wfeWake s.h.id) s = .next (s.mapH (fun h => { h with event := false, wait := .none })).advance) ∧
     (s.h.event = false → exec (.wfeWake s.h.id) s = .next s) ∧
     (t + 65536 ≤ s.dev.time → exec (.wfeTimeout s.h.id) s = .next (s.mapH (fun h => { h with event := true }))) ∧
     (s.dev.time < t + 65536 → exec (.wfeTimeout s.h.id) s = .next s))) ∧
  (∀ s : State,
     (s.h.wait = .ordered → s.h.convoys = [] → s.h.squeue = [] →
       exec (.orderedWaitRelease s.h.id) s = .next (s.mapH (fun h => { h with wait := .none }))) ∧
     (∀ k, s.h.wait = .fence k → s.h.fenceReady k = true →
       exec (.orderedWaitRelease s.h.id) s = .next (s.mapH (fun h => { h with wait := .none }))) ∧
     exec (.ssbCommit s.h.id) s =
       .next ((s.h.closed.foldl (fun s st => s.accept (if st.vector then .vector s.h.id else .scalar s.h.id) st true) s).mapH
         (fun h => { h with closed := [] })))

/-- BAR (R275, R276): at hart scope it orders the hart alone; at core scope it arrives at the count of its group, and the last to arrive
completes the generation; at wider scopes it arrives at the counter in memory, behind the writes to its bytes, writing ARRIVED + 1, or at
the last arrival
ARRIVED 0 and GEN + 1; a waiting hart goes on once the generation has changed. Each look of a waiting hart at the counter in memory translates its
address; where it is denied the BAR is refused as any access is (log 70).
Where the rules leave a point open, it follows the model's reading in log 8, log 17 and log 70. -/
def Obligations.Barriers : Prop :=
  (∀ (s : State) (xa : XReg) (c : Scope) (p : Place), s.seal.h.fenceReady .all = true →
    let o := s.seal.order true true
    let m := (o.entered (s.h.rx xa)).beforeHome (.scalar s.h.id) p.key 8
    let cnt := m.mem.dword p.key
    let expected := field cnt 0 16
    let arrived := field cnt 16 16
    let gen := field cnt 32 32
    exec (.bar 0 .hart) s = .next o.advance ∧
    (o.coreBar.arrived + 1 < o.groupHarts.length → exec (.bar 0 .core) s = .next
      ((o.setCoreBar { o.coreBar with arrived := o.coreBar.arrived + 1 }).mapH (fun h => { h with wait := .bar none o.coreBar.gen }))) ∧
    (o.groupHarts.length ≤ o.coreBar.arrived + 1 → o.coreBar.gen + 1 < 2 ^ 32 → exec (.bar 0 .core) s = .next
      ((o.setCoreBar { o.coreBar with arrived := o.coreBar.arrived + 1 }).setCoreBar
        { o.coreBar with arrived := 0, gen := o.coreBar.gen + 1 }).advance) ∧
    (c ≠ .hart → c ≠ .core → (s.h.rx xa).toNat % 8 = 0 → (s.h.rx xa).toNat < localBase →
      o.translate .atomic (s.h.rx xa) = .ok p → p.atom = true → s.h.bpRange bpBoth (s.h.rx xa) 8 = none → o.readAborts false p.key 8 = false →
      (arrived + 1 < expected → exec (.bar xa c) s = .next ((m.perform (.scalar s.h.id)
        (cellsOf p.key 8 (gen * 2 ^ 32 + (arrived + 1) * 2 ^ 16 + expected))).mapH (fun h => { h with wait := .bar (some (s.h.rx xa)) gen }))) ∧
      (arrived + 1 = expected → exec (.bar xa c) s = .next ((m.perform (.scalar s.h.id)
        (cellsOf p.key 8 ((gen + 1) % 2 ^ 32 * 2 ^ 32 + expected))).advance)) ∧
      (expected ≤ arrived → exec (.bar xa c) s = m.trapped .perm (s.h.rx xa)))) ∧
  (∀ (s : State) (va : Word) (g : Nat), s.h.wait = .bar (some va) g →
    let t := s.entered va
    let up := fun (u : State) => u.mapH (fun h => { h with wait := .none })
    let info := fun (c : Cause) => ({ cause := c, bp := 0, epc := s.h.pc, eval := va, eelem := 0, elane := 0 } : TrapInfo)
    (∀ p, s.translate .atomic va = .ok p → p.atom = true → s.aborts p.key 8 = false →
      (field (s.mem.dword p.key) 32 32 ≠ g → exec (.barRelease s.h.id) s = .next (up t).advance) ∧
      (field (s.mem.dword p.key) 32 32 = g → exec (.barRelease s.h.id) s = .next t)) ∧
    (∀ p, s.translate .atomic va = .ok p → p.atom = false → exec (.barRelease s.h.id) s = .next ((up t).raise (info .perm))) ∧
    (∀ p, s.translate .atomic va = .ok p → p.atom = true → s.aborts p.key 8 = true →
      exec (.barRelease s.h.id) s = .next ((up t).aborted (info .page))) ∧
    (s.translate .atomic va = .error .page → exec (.barRelease s.h.id) s = .next ((up t).raise (info .page))) ∧
    (s.translate .atomic va = .error .perm → exec (.barRelease s.h.id) s = .next ((up t).raise (info .perm))) ∧
    (s.translate .atomic va = .error .abort → exec (.barRelease s.h.id) s = .next ((up t).aborted (info .page)))) ∧
  (∀ (s : State) (g : Nat), s.h.wait = .bar none g → s.coreBar.gen ≠ g →
    exec (.barRelease s.h.id) s = .next (s.mapH (fun h => { h with wait := .none })).advance)

/-! ### Occupancy and vector length -/

/-- VSETVL and VSETVLI (R56, R58, R61, R157): with a consistent VT, GRANT is what the occupancy manager gives, VT the new value, VLCAP
1,024 · g / SEW, VL the smaller of the AVL and VLCAP, cut to whole blocks when it holds one; X[xd] receives VL. At a strip head of no
farm a strip opens with a checkpoint of the state before (the X registers that STRIPCK names and X[XREG], VMT, the loop CSRs, the PC), its SVL
the VL; the stores of an earlier strip are committed. An inconsistent VT is refused with ILL.
A rewind (R161, R162) gives these back: the checkpoint's X registers, VMT, PC and loop CSRs, with OPEN 0, SEALED 0 and REPLAY 1, REWINDS one more,
up to 15, where it is counted; of a farm the claim in XSTRIP and LCNT, and SVL 0; the strip store buffer and the hart's queues are empty, and
nothing else of the machine that a program sees changes.
Where the rules leave a point open, it follows the model's reading in log 14 and log 52. -/
def Obligations.SettingTheVectorLength : Prop :=
  ∀ (xd xa xb : XReg) (sew fmt blk : BitVec 3) (rm : BitVec 2) (s : State) (i : Instr) (vt : Word),
    (i = .vsetvl xd xa xb ∧ vt = s.h.rx xb) ∨
      (i = .vsetvli xd xa sew fmt blk rm ∧
        vt = BitVec.ofNat 64 (sew.toNat + 8 * fmt.toNat + 64 * blk.toNat + 512 * rm.toNat)) →
    let avl := (s.h.rx xa).toNat
    let before := if s.h.loops.stripLevel.isSome = true ∧ s.h.loops.replay = false then s.closeStrip else s
    let holds := fun (t : State) =>
      t.h.vt = vt.setWidth 11 ∧ t.h.grant = before.regrant.h.grant ∧ t.core = before.regrant.core ∧
      t.h.vlcap.toNat = 1024 * popcount 8 t.h.grant.toNat / 2 ^ (vt.toNat % 8 + 1) ∧
      (let m := min avl t.h.vlcap.toNat
       let b := vtBlock (vt.setWidth 11)
       t.h.vl.toNat = if 1 < b ∧ b ≤ m then m / b * b else m) ∧
      t.h.x = (s.h.wx xd (BitVec.ofNat 64 t.h.vl.toNat)).x ∧ t.h.v = s.h.v ∧ t.h.k = s.h.k ∧ t.h.trap = s.h.trap ∧
      t.h.fflags = s.h.fflags ∧ t.h.pc = s.h.pc ∧ t.h.closed ++ t.h.ssb = s.h.closed ++ s.h.ssb ∧ t.mem = s.mem ∧ t.dev = s.dev
    (vtConsistent vt = false → exec i s = s.trapped .ill s.h.pc) ∧
    (vtConsistent vt = true → s.h.loops.stripLevel = none → ∃ t : State, exec i s = .next t.advance ∧ holds t ∧ t.h.loops = s.h.loops) ∧
    (∀ n l, vtConsistent vt = true → s.h.loops.stripLevel = some (n, l) → l.farm = false → s.h.loops.levels.length = 4 →
      ∃ (t : State) (ck : Checkpoint), exec i s = .next t.advance ∧ holds t ∧ t.h.loops.opn = true ∧ t.h.loops.sealed = false ∧ t.h.loops.replay = false ∧
        t.h.loops.rewinds = (if s.h.loops.replay then s.h.loops.rewinds else 0) ∧
        (t.h.loops.level n).svl = t.h.vl.toNat ∧ t.h.ckpt = some ck ∧
        ck.pc = s.h.pc ∧ ck.vmt = s.h.vmt ∧ ck.loops = s.h.loops ∧ ck.claim = none ∧
        ∀ (r : Nat) (x : Word), (r, x) ∈ ck.xs ↔
          r ≠ 0 ∧ (r = l.xreg.toNat ∨ ∃ i, i < 8 ∧ r = s.h.loops.stripck.toNat / 2 ^ (5 * i) % 32) ∧ x = s.h.rx (BitVec.ofNat 5 r)) ∧
    (∀ (ck : Checkpoint) (counted : Bool), s.h.ckpt = some ck → s.h.x.length = 32 → ck.loops.levels.length = 4 →
      let t := s.rewind counted
      (∀ (r : XReg) (y : Word), r ≠ 0 → (r.toNat, y) ∈ ck.xs → (∀ z, (r.toNat, z) ∈ ck.xs → z = y) → t.h.rx r = y) ∧
      (∀ r : XReg, (∀ y, (r.toNat, y) ∉ ck.xs) → t.h.rx r = s.h.rx r) ∧
      t.h.vmt = ck.vmt ∧ t.h.pc = ck.pc ∧ t.h.ssb = [] ∧ t.h.ckpt = none ∧ t.h.convoys = [] ∧ t.h.squeue = [] ∧ t.h.ahead = [] ∧
      t.h.wait = .none ∧
      t.h.loops = { ck.loops with levels := t.h.loops.levels, opn := false, sealed := false, replay := true, rewinds := t.h.loops.rewinds } ∧
      t.h.loops.rewinds.toNat = (if counted then min 15 (s.h.loops.rewinds.toNat + 1) else s.h.loops.rewinds.toNat) ∧
      (ck.claim = none → t.h.loops.levels = ck.loops.levels ∧ t.h.xstrip = s.h.xstrip) ∧
      (∀ base len n l, ck.claim = some (base, len) → ck.loops.active.find? (fun p => p.2.strip) = some (n, l) →
        t.h.xstrip = base ∧ (t.h.loops.level n).lcnt = len ∧ (t.h.loops.level n).svl = 0 ∧ (t.h.loops.level n).xreg = l.xreg ∧
        (t.h.loops.level n).lbeg = l.lbeg ∧ (t.h.loops.level n).lend = l.lend ∧ (t.h.loops.level n).sp = l.sp ∧
        ∀ m, m ≠ n → t.h.loops.level m = ck.loops.level m) ∧
      t.mem = s.mem ∧ t.dev = s.dev ∧ t.h.v = s.h.v ∧ t.h.k = s.h.k ∧ t.h.f = s.h.f ∧ t.h.hf = s.h.hf ∧ t.h.vl = s.h.vl ∧ t.h.vt = s.h.vt ∧
      t.h.grant = s.h.grant ∧ t.h.fflags = s.h.fflags ∧ t.h.trap = s.h.trap ∧ t.h.mq = s.h.mq ∧ t.h.streams = s.h.streams ∧
      t.h.closed = s.h.closed)

/-- A farm strip head, a VSETVL or a VSETVLI (R160): its VL, XSTRIP and LCNT are those of its claim, and X[xd] receives VL; a claim that is
refused leaves it without effect; a fresh claim adds VLCAP to `next` by one atomic and takes what `total` leaves of it. The claim that a
discarded head of the pipeline has made stays the hart's, and the next head that claims from the descriptor takes it with no atomic of its
own (R292, R309: no claimed range is lost), unless the hart has stored to `next` since.
Where the rules leave a point open, it follows the model's reading in log 28 and log 65. -/
def Obligations.FarmClaims : Prop :=
  (∀ (xd xa xb : XReg) (sew fmt blk : BitVec 3) (rm : BitVec 2) (s : State) (i : Instr) (vt : Word) (n : Nat) (l : Level),
    (i = .vsetvl xd xa xb ∧ vt = s.h.rx xb) ∨
      (i = .vsetvli xd xa sew fmt blk rm ∧
        vt = BitVec.ofNat 64 (sew.toNat + 8 * fmt.toNat + 64 * blk.toNat + 512 * rm.toNat)) →
    let before := if s.h.loops.replay then s else s.closeStrip
    let s1 := before.regrant.setVt (vt.setWidth 11)
    vtConsistent vt = true → s.h.loops.stripLevel = some (n, l) → l.farm = true → s.h.loops.levels.length = 4 →
    (∀ s2 base c, s1.farmClaim [] l = .ok (s2, base, c) → c < 2 ^ 64 →
      ∃ t : State, exec i s = .next t.advance ∧ t.h.vl.toNat = min c s2.h.vlcap.toNat ∧ t.h.xstrip = base ∧
        (t.h.loops.level n).lcnt.toNat = c - t.h.vl.toNat ∧ (t.h.loops.level n).svl = t.h.vl.toNat ∧ t.h.loops.opn = true ∧
        t.h.x = (s.h.wx xd (BitVec.ofNat 64 t.h.vl.toNat)).x ∧ t.mem = s2.mem) ∧
    (∀ x, s1.farmClaim [] l = .error x → exec i s = .next (s.stopAt x))) ∧
  (∀ (s : State) (d : Word) (cap : Nat) (p q : Place), d.toNat % 8 = 0 →
    let u := (s.enteredScalar d).enteredScalar (d + 8)
    u.scalarPlace .atomic d = .ok p → u.scalarPlace .load (d + 8) = .ok q →
    s.h.bpRange bpBoth d 8 = none → s.h.bpRange bpRead (d + 8) 8 = none → s.readAborts false p.key 8 = false →
    s.readAborts false q.key 8 = false →
    s.h.closed = [] → s.dev.writes = [] → s.h.ssb = [] → s.mem.wf = true → q.key = p.key + 8 →
    let next := readLE s.mem.read p.key 8
    let total := readLE s.mem.read q.key 8
    ∃ t, s.freshClaim [] d cap = .ok (t, BitVec.ofNat 64 next, if next < total then min cap (total - next) else 0) ∧
      readLE t.mem.read p.key 8 = (next + cap) % 2 ^ 64) ∧
  (∀ (s : State) (l : Level) (held : List Store) (k : KeptClaim), s.h.loops.replay = false → l.lcnt = 0 →
    s.h.keptClaim (s.h.rx l.xreg) = some k →
    s.farmClaim held l = .ok (s.mapH (fun h => { h with claims := h.claims.erase k }), k.base, k.count)) ∧
  (∀ (h : Hart) (e : Ahead) (g : BitVec 8) (d base : Word) (n : Nat), e ∈ h.ahead → e.kind = .head g (some (base, n)) (some d) →
    (∃ k, h.dropAhead.keptClaim d = some k) ∧
    ({ ctxid := h.ctxid, desc := d, base := base, count := n } : KeptClaim) ∈ h.dropAhead.claims ∧ h.dropAhead.ahead = []) ∧
  (∀ (h : Hart) (c : BitVec 16) (va : Word), h.renumber c va = { h with claims := (h.renumber c va).claims } ∧
    ∀ k : KeptClaim, k ∈ (h.renumber c va).claims ↔
      k ∈ h.claims ∧ ¬ (k.ctxid = c ∧ k.desc.toNat ≤ va.toNat ∧ va.toNat < k.desc.toNat + 8))

/-! ### Tiles and streams -/

/-- The tile instructions (R207 to R210): with nothing queued before it, each completes on the tile that its rule asks for. TALLOC makes an
EMPTY tile of BASE and LEN for the hart's group, and is refused where the range does not lie in the VSP, where the entry is allocated, or
where a byte is another tile's; TFREE frees an EMPTY tile, or a READY one that nothing uses, and waits for the uses of another; TSET publishes an EMPTY tile as READY,
after the hart's stores, all of them (log 8); TRED zeroes an EMPTY tile and arms it for its contributions, behind a QFOLD of the hart that is
still to be applied to it (R269); TSTAT reads the entry. A field that does not hold what Table 12.5 gives it, or a count of contributors that is 0
or above 255, is refused with ILL, then a tile of another group with PERM, then a tile that is free or in a state from which Table 12.4 has no such
transition, with PERM; EVAL is the tile's number, and nothing changes beside the trap.
Where the rules leave a point open, it follows the model's reading in log 8 and log 10. -/
def Obligations.TileInstructions : Prop :=
  ∀ (q : WqArgs) (s : State), s.h.convoys = [] → s.h.squeue = [] →
    let core := s.h.id / 4
    let n := q.tn.toNat
    let t := s.tile q.tn
    let base := (s.h.rx q.xa).toNat
    let len := (s.h.rx q.xb).toNat
    let put := fun (u : State) (f : Tile → Tile) => Host.Outcome.next (φ := Fault) (ρ := Refusal) (u.onTile core n f).advance
    (wqFieldsOk (.talloc q) = true → len ≠ 0 → base + len ≤ 2048 → t.alloc = false → s.core.overlapsTile base len = false →
      exec (.talloc q) s = put s.seal (fun _ => { freeTile with
        alloc := true, base := base, len := len, owner := s.h.groupid, task := s.h.task })) ∧
    (wqFieldsOk (.talloc q) = true → len = 0 ∨ 2048 < base + len → exec (.talloc q) s = s.trapped .ill (q.tn.setWidth 64)) ∧
    (wqFieldsOk (.talloc q) = true → len ≠ 0 → base + len ≤ 2048 → t.alloc = true ∨ s.core.overlapsTile base len = true →
      exec (.talloc q) s = s.trapped .perm (q.tn.setWidth 64)) ∧
    (wqFieldsOk (.tfree q) = true → s.foreign t = false → t.alloc = true →
      t.state = .empty ∨ (t.state = .ready ∧ s.tileUses core n = 0) → exec (.tfree q) s = put s.seal (fun _ => freeTile)) ∧
    (wqFieldsOk (.tfree q) = true → s.foreign t = false → t.alloc = true → t.state = .ready → s.tileUses core n ≠ 0 →
      exec (.tfree q) s = .next (s.mapH (fun h => { h with squeue := [{ pc := h.pc, word := .tfree q }] })).seal) ∧
    (wqFieldsOk (.tstat q) = true → exec (.tstat q) s = .next (s.setX q.xa t.image).advance) ∧
    (∀ i ∈ [Instr.talloc q, .tfree q, .tstat q, .tset q, .tred q], wqFieldsOk i = false → exec i s = s.trapped .ill (q.tn.setWidth 64)) ∧
    (wqFieldsOk (.tred q) = true → base = 0 ∨ 255 < base → exec (.tred q) s = s.trapped .ill (q.tn.setWidth 64)) ∧
    (s.foreign t = false →
      (wqFieldsOk (.tfree q) = true → t.alloc = false ∨ t.state = .filling ∨ t.state = .draining →
        exec (.tfree q) s = s.trapped .perm (q.tn.setWidth 64)) ∧
      (wqFieldsOk (.tset q) = true → t.alloc = false ∨ t.state ≠ .empty → exec (.tset q) s = s.trapped .perm (q.tn.setWidth 64)) ∧
      (wqFieldsOk (.tred q) = true → 1 ≤ base → base ≤ 255 → t.alloc = false ∨ t.state ≠ .empty →
        exec (.tred q) s = s.trapped .perm (q.tn.setWidth 64))) ∧
    (wqFieldsOk (.tset q) = true → s.foreign t = false → t.alloc = true → t.state = .empty →
      exec (.tset q) s = put (s.seal.order true true) (fun t => { t with state := .ready })) ∧
    (wqFieldsOk (.tred q) = true → 1 ≤ base → base ≤ 255 → s.foreign t = false → t.alloc = true → t.state = .empty →
      s.h.foldPending q.tn = true → exec (.tred q) s = .next (s.mapH (fun h => { h with squeue := [{ pc := h.pc, word := .tred q }] })).seal) ∧
    (wqFieldsOk (.tred q) = true → 1 ≤ base → base ≤ 255 → s.foreign t = false → t.alloc = true → t.state = .empty →
      s.h.foldPending q.tn = false → exec (.tred q) s = put (s.seal.flushClosed.strike (.vector s.h.id) (localKey core (0x200000 + 1024 * t.base)) (1024 * t.len) 0)
        (fun t => { t with state := .filling, expected := base, arrived := 0, next := 0, buffer := [] })) ∧
    (s.foreign t = true →
      (wqFieldsOk (.tfree q) = true → exec (.tfree q) s = s.trapped .perm (q.tn.setWidth 64)) ∧
      (wqFieldsOk (.tset q) = true → exec (.tset q) s = s.trapped .perm (q.tn.setWidth 64)) ∧
      (wqFieldsOk (.tred q) = true → 1 ≤ base → base ≤ 255 → exec (.tred q) s = s.trapped .perm (q.tn.setWidth 64)))

/-- The start of a stream (R223, R224, R226 to R231): with nothing queued before it, a word whose fields, VT and operands stand, whose
handle is free, whose tile is the group's own and in the state it needs, whose ranges meet no earlier stream's, and whose capacity,
alignment and translations pass, starts: the tile passes to FILLING or DRAINING bound to the handle, and the handle is busy; at VL = 0
the stream is complete at once. A stream that conflicts, or whose ranges meet the lines of a migration of the hart (log 57), waits in the stream
queue before anything but its encoding is checked; a QST waits there
for the uses of its tile, and any but a QFOLD for a QFOLD of the hart that is still to be applied to its tile (R209, R269); the hart's own
state stays at the word, while its pipeline may go on ahead of it (log 10). A busy handle is refused with PERM.
Where the rules leave a point open, it follows the model's reading in log 10, log 38 and log 57. -/
def Obligations.StreamStarts : Prop :=
  ∀ (i : Instr) (kind : BitVec 5) (a : WqArgs) (s : State), s.h.convoys = [] → s.h.squeue = [] →
    (i = .qld a ∧ kind = 0) ∨ (i = .qst a ∧ kind = 1) ∨ (i = .qred a ∧ kind = 2) ∨ (i = .qfold a ∧ kind = 3) ∨
      (i = .qnvm a ∧ kind = 4) →
    wqFieldsOk i = true → s.streamVt i = true →
    let n := a.qn.toNat
    let q := (s.newStream kind a).ranged
    let t := s.tile a.tn
    let ready := s.h.stream n = none ∧
      (q.namesTile = true → s.foreign t = false ∧ t.alloc = true ∧ t.state = (if kind = 0 ∨ kind = 4 then .empty else .ready)) ∧
      (kind = 2 → s.destOk q = true)
    let free := (kind = 1 → s.tileUses (s.h.id / 4) a.tn.toNat = 0) ∧ (kind ≠ 3 → q.namesTile = true → s.h.foldPending a.tn = false)
    let meets := s.h.conflicts q || s.migrationMeets q
    let settled := meets = false ∧ free
    let waits := Host.Outcome.next (φ := Fault) (ρ := Refusal) (s.mapH (fun h => { h with squeue := [{ pc := h.pc, word := i }] })).seal
    let u := s.seal.flushClosed.enteredStream q
    let bound := if q.binds then u.onTile (s.h.id / 4) a.tn.toNat (fun t =>
      { t with state := if kind = 1 then .draining else .filling, bound := true, stream := n, hart := s.h.id }) else u
    (ready → settled → s.streamFault q t = none → q.total ≠ 0 → exec i s = .next (bound.setStream n (some q)).advance) ∧
    (ready → settled → s.streamFault q t = none → q.total = 0 → exec i s = .next (bound.completeStream n q).advance) ∧
    (meets = true → exec i s = waits) ∧ (ready → meets = false → ¬ free → exec i s = waits) ∧
    (meets = false → s.h.stream n ≠ none → exec i s = s.trapped .perm (a.qn.setWidth 64))

/-- QWAIT, QAVAIL and QCLOSE (R232, R233) and the returns of those that wait: QWAIT completes once N reaches its count or the stream is
complete, QAVAIL reads N with the complete and failed bits, QCLOSE frees the handle of a stream that has ended; a failed
stream gives QERR with its status and N; on a stream that runs they wait.
Where the rules leave a point open, it follows the model's reading in log 10 and log 35. -/
def Obligations.StreamQueries : Prop :=
  ∀ (a : WqArgs) (s : State) (q : Stream), s.h.stream a.qn.toNat = some q →
    let n := a.qn.toNat
    let freed := fun (u : State) => u.mapH (fun h => { h with streams := h.streams.set n none })
    let qerr := fun (u : State) => u.raise { cause := .qerr, bp := 0, epc := u.h.pc, eval := q.status.setWidth 64, eelem := q.n, elane := 0 }
    (wqFieldsOk (.qwait a) = true →
      (q.status = 0 → (q.complete = true ∨ (s.h.rx a.xa).toNat ≤ q.n) → exec (.qwait a) s = .next s.advance) ∧
      (q.status = 0 → q.complete = false → q.n < (s.h.rx a.xa).toNat →
        exec (.qwait a) s = .next (s.mapH (fun h => { h with wait := .qwait n (h.rx a.xa) }))) ∧
      (q.status ≠ 0 → exec (.qwait a) s = .next (qerr s))) ∧
    (wqFieldsOk (.qavail a) = true → s.h.convoys = [] → s.h.squeue = [] → exec (.qavail a) s = .next (s.setX a.xa
      (BitVec.ofNat 64 (q.n % 2 ^ 48 + 2 ^ 48 * q.complete.toNat + 2 ^ 49 * (q.status != 0).toNat))).advance) ∧
    (wqFieldsOk (.qclose a) = true →
      (q.complete = true → q.status = 0 → exec (.qclose a) s = .next (freed s.seal).advance) ∧
      (q.status ≠ 0 → exec (.qclose a) s = .next (qerr (freed s.seal))) ∧
      (q.complete = false → q.status = 0 → exec (.qclose a) s = .next (s.seal.mapH (fun h => { h with wait := .qclose n })))) ∧
    (∀ c, s.h.wait = .qwait n c → q.status = 0 → (q.complete = true ∨ c.toNat ≤ q.n) →
      exec (.qwaitReturn s.h.id) s = .next (s.mapH (fun h => { h with wait := .none })).advance) ∧
    (s.h.wait = .qclose n → q.complete = true → q.status = 0 →
      exec (.qcloseReturn s.h.id) s = .next (freed (s.mapH (fun h => { h with wait := .none }))).advance)

/-- QSAVE and QREST (R234): in supervisor mode, a saved stream's record of 32 bytes is written at X[xa] as a vector store, once the writes of its
elements on their way are performed (log 67), its tile is unbound and its handle freed; a restored record makes the stream again under its
handle, with its ranges while it runs and its tile bound; both wait while a running stream of the hart, or a migration, has yet to access the record's
bytes (R269; log 57); in user mode both are refused with PERM.
A stream's record says what the stream is (Table 13.7): read back, it gives kind, mode, tile, addresses, VT, counts and status.
Where the rules leave a point open, it follows the model's reading in log 39, log 57 and log 67. -/
def Obligations.StreamSaveAndRestore : Prop :=
  (∀ (a : WqArgs) (s : State), s.h.convoys = [] → s.h.squeue = [] →
     let n := a.qn.toNat
     let waits := fun (i : Instr) => Host.Outcome.next (φ := Fault) (ρ := Refusal) (s.mapH (fun h => { h with squeue := [{ pc := h.pc, word := i }] })).seal
     (∀ (q : Stream) (p : Place), wqFieldsOk (.qsave a) = true → s.h.trap.sup = true → s.h.stream n = some q →
       s.recordPlace .store (s.h.rx a.xa) = .ok p →
       (q.kind = 2 ∧ q.sent = true ∧ q.running = true) ∨ (s.setStream n none).recordWaits true (s.h.rx a.xa) = true →
       exec (.qsave a) s = waits (.qsave a)) ∧
     (∀ (q : Stream) (p : Place), wqFieldsOk (.qsave a) = true → s.h.trap.sup = true → s.h.stream n = some q →
       s.recordPlace .store (s.h.rx a.xa) = .ok p → ¬ (q.kind = 2 ∧ q.sent = true ∧ q.running = true) →
       (s.setStream n none).recordWaits true (s.h.rx a.xa) = false →
       exec (.qsave a) s = .next (((((s.seal.flushClosed.enteredScalar (s.h.rx a.xa)).drainWhere (fun w => q.moving.any (·.owns w))).writePlace
         s.h.ctxid (s.h.rx a.xa) p 32 q.record).onBound n q (fun t => { t with bound := false })).setStream n none).advance) ∧
     (∀ p : Place, wqFieldsOk (.qrest a) = true → s.h.trap.sup = true → s.h.stream n = none →
       s.recordPlace .load (s.h.rx a.xa) = .ok p →
       (s.recordWaits false (s.h.rx a.xa) = true → exec (.qrest a) s = waits (.qrest a)) ∧ (s.recordWaits false (s.h.rx a.xa) = false →
       let rd := (s.seal.flushClosed.atHome.enteredScalar (s.h.rx a.xa)).streamReads 32 [p.key]
       let u := rd.1
       let r := rd.2.headD 0
       let q := s.streamOfRecord r
       let t := s.tile q.tn
       let q1 := if q.running then q.ranged else q
       let meets := s.h.conflicts q1 || s.migrationMeets q1
       r / 2 ^ 29 % 2 = 1 → r % 2 ^ 29 = 0 → q.kind.toNat ≤ 4 →
       (meets = true → exec (.qrest a) s = waits (.qrest a)) ∧
       ((q.namesTile = true → s.foreign t = false ∧ t.alloc = true ∧ t.state = leftState q.kind) → meets = false →
       exec (.qrest a) s = .next ((if q.binds = true then u.onTile (s.h.id / 4) q.tn.toNat (fun t =>
         { t with bound := true, stream := n, hart := s.h.id }) else u).setStream n (some q1)).advance))) ∧
     (s.h.trap.sup = false → (wqFieldsOk (.qsave a) = true → exec (.qsave a) s = s.trapped .perm 0) ∧
       (wqFieldsOk (.qrest a) = true → exec (.qrest a) s = s.trapped .perm 0))) ∧
  (∀ (s : State) (q : Stream), q.total < 2 ^ 32 → q.n < 2 ^ 32 →
     let r := s.streamOfRecord q.record
     q.record < 2 ^ 256 ∧ q.record / 2 ^ 29 % 2 = 1 ∧ q.record % 2 ^ 29 = 0 ∧ r.kind = q.kind ∧ r.mode = q.mode ∧ r.tn = q.tn ∧
       r.xa = q.xa ∧ r.xb = q.xb ∧ r.vt = q.vt ∧ r.total = q.total ∧ r.n = q.n ∧ r.status = q.status ∧ r.complete = q.complete)

/-- What goes on in streams beside the hart (R209, R221, R223, R225, R227, R229, R230, R231), each at the stream of a handle of the hart in
hand, what it reads behind the hart's own vector writes, all of them (log 8), what it writes behind those that were accepted before it started
(R236), and behind the requests of its die to others (log 45): a queued word starts, which
moves the place of the hart's oldest unfinished work on, and what it writes to X registers reaches the pipeline ahead (log 10); an element
of a plain QLD or QST is moved whole, a block of a converting one is converted whole, a block of a QNVM arrives from its target over a live
port (log 41), or the stream fails; what is written to memory is accepted as a vector store is, and its elements finish once it is performed
(R228; log 67); a stream fails with a status that its accesses support, an abort completion in the error log (log 61); a QRED reads its source,
and its contribution is added to the destination tile in its turn; a QFOLD is applied in its order.
Where the rules leave a point open, it follows the model's reading in log 1, log 6, log 8, log 10, log 38, log 41, log 45, log 61, log 64,
log 67 and log 69. -/
def Obligations.StreamEvents : Prop :=
  (∀ (s t : State) (e : WqEntry) (l : List WqEntry) (f : State → Start), s.h.squeue = e :: l → s.h.convoys = [] →
    startOf e.word = some f → f (s.mapH (fun h => { h with squeue := l })) = .go t →
    exec (.streamStart s.h.id) s = .next (t.mapH s.h.showFrom).advance ∧
    (∀ q, e.word = .tfree q ∨ e.word = .qst q → s.tileUses (s.h.id / 4) q.tn.toNat = 0 →
      exec (.tileUseDrain s.h.id) s = .next (t.mapH s.h.showFrom).advance)) ∧
  (∀ (s : State) (n e : Nat) (q : Stream), s.h.stream n = some q → q.running = true → q.n ≤ e → e < q.total →
    q.arrived.contains e = false →
    let w := q.deviceWidth
    let base := localKey (s.h.id / 4) (0x200000 + 1024 * (s.tile q.tn).base)
    let as := q.arrivals e
    let u := s.streamReady q as
    let ag := Agent.vector s.h.id
    let arrives := fun (t : State) => exec (.streamElementArrival s.h.id n e) s = .next t
    let j := e / vtBlock q.vt
    let es := q.block j
    let target := windowKey (dieOfHart s.h.id) (0x50000 + 64 * field q.xa 48 8)
    (∀ m, q.moving.find? (fun m => m.elems.contains e) = some m →
      ((∀ d ∈ m.dies, s.dev.lost.getLsbD d = false) →
        arrives ((s.drainWhere m.owns).finishElements n { q with moving := q.moving.erase m } m.elems)) ∧
      ((∃ d ∈ m.dies, s.dev.lost.getLsbD d = true) → arrives (s.failStream n q 3))) ∧
    (q.moving.find? (fun m => m.elems.contains e) = none →
    let moved := fun (t : State) (es : List Nat) => arrives (t.movedElements n q u.dev.nextWrite es)
    (q.kind = 4 → s.targetOk q = true → s.dev.ports = 0 → arrives s) ∧
    (∀ p, q.kind = 0 → q.cv = 0 → u.elementPlace q .load (q.address e) w = .ok p →
      let r := u.streamReads w [p.key]
      moved (r.1.strike ag (base + e * w) w (r.2.headD 0)) [e]) ∧
    (∀ p, q.kind = 1 → q.cv = 0 → u.elementPlace q .store (q.address e) w = .ok p → u.aborts (base + e * w) w = false →
      (q.shadowed e = true → moved u [e]) ∧
      (q.shadowed e = false → moved (u.writePlace q.ctxid (q.address e) p w (u.readVector (base + e * w) w)) [e])) ∧
    (∀ p, q.kind = 1 → q.cv = 0 → u.elementPlace q .store (q.address e) w = .ok p → u.aborts (base + e * w) w = true →
      arrives (u.denyStream n q as base .abort)) ∧
    (∀ d, q.kind.toNat ≤ 1 → q.cv = 0 → u.elementPlace q (if q.kind = 0 then .load else .store) (q.address e) w = .error d →
      arrives (u.denyStream n q as base d)) ∧
    (∀ p ps, q.kind = 0 → q.cv ≠ 0 → u.elementPlace q .load (q.scaleAddress j) 1 = .ok p →
      u.streamPlaces q .load w (es.map q.address) = .ok ps →
      let sc := u.streamReads 1 [p.key]
      let r := sc.1.streamReads w (ps.map (·.key))
      moved ((es.zip r.2).foldl (fun s x => s.strike (.vector s.h.id) (base + 4 * x.1) 4
        (dequantElem binary32 0 (8 * w) (sc.2.headD 0) x.2).1) r.1) es) ∧
    (∀ p ps, q.kind = 1 → q.cv ≠ 0 → u.elementPlace q .store (q.scaleAddress j) 1 = .ok p →
      u.streamPlaces q .store w (es.map q.address) = .ok ps → (∀ i ∈ es, u.aborts (base + 4 * i) 4 = false) →
      let x := fun i => u.readVector (base + 4 * i) 4
      let sc := blockScale binary32 (es.map x)
      moved (((es.zip ps).foldl (fun s r => s.writePlace q.ctxid (q.address r.1) r.2 w (quantElem binary32 (8 * w) sc (x r.1)).1) u).writePlace
        q.ctxid (q.scaleAddress j) p 1 sc) es) ∧
    (q.kind = 4 → s.dev.ports ≠ 0 → u.poisoned target 64 = false → u.targetOk q = true →
      let block := packList 8 ((List.range 4096).map (fun i =>
        (Config.storageByte u.dev.steps (field q.xa 48 8) (field q.xa 0 48 + e) i).toNat))
      (q.mode.getLsbD 0 = true → moved (u.strike ag (base + 4096 * e) 4096 block) [e]) ∧
      (∀ p, q.mode.getLsbD 0 = false → u.elementPlace q .store (q.address e) 4096 = .ok p →
        moved (u.writePlace q.ctxid (q.address e) p 4096 block) [e])) ∧
    (q.kind = 4 → s.dev.ports ≠ 0 ∨ s.targetOk q = false → u.poisoned target 64 = true → arrives (u.denyStream n q [] target .abort)) ∧
    (q.kind = 4 → s.dev.ports ≠ 0 ∨ s.targetOk q = false → u.poisoned target 64 = false → u.targetOk q = false →
      arrives (u.failStream n q 4)))) ∧
  (∀ (s : State) (q : Stream) (as : List (Word × Nat)),
    (q.access ≠ some .store → s.streamReady q as = s.atHome.enteredFor q.ctxid (as.map (·.1))) ∧
    (q.access = some .store → s.streamReady q as =
      (s.drainWhere (fun w => ownVector s.h.id w && w.id < q.since)).enteredFor q.ctxid (as.map (·.1)))) ∧
  (∀ (s : State) (n first : Nat) (q : Stream) (es : List Nat),
    let hides := fun (m : Moving) => ∃ i ∈ m.elems, ∃ e ∈ es, e < i ∧ q.address i = q.address e
    (s.dev.nextWrite ≠ first → ∃ m : Moving, m.elems = es ∧ m.first = first ∧ m.count = s.dev.nextWrite - first ∧
      (∀ w ∈ s.dev.writes, first ≤ w.id → w.repl = false → w.target ∈ m.dies) ∧
      s.movedElements n q first es = s.setStream n (some { q with moving := q.moving ++ [m] })) ∧
    (s.dev.nextWrite = first → (∀ m ∈ q.moving, ¬ hides m) → s.movedElements n q first es = s.finishElements n q es) ∧
    (s.dev.nextWrite = first → (∃ m ∈ q.moving, hides m) → ∃ l : List Moving, s.movedElements n q first es = s.setStream n (some { q with moving := l }) ∧
      l.length = q.moving.length ∧ ∀ (i : Nat) (m : Moving), q.moving[i]? = some m → (¬ hides m → l[i]? = some m) ∧
        (hides m → l[i]? = some { m with elems := m.elems ++ es }))) ∧
  (∀ (s : State) (n st : Nat) (q : Stream), s.h.stream n = some q → q.running = true → s.mayFail q st = true →
    (st ≠ 3 → exec (.streamFail s.h.id n st) s = .next (s.failStream n q (BitVec.ofNat 8 st))) ∧
    (st = 3 → exec (.streamFail s.h.id n st) s = .next (s.denyStream n q [] (localKey (s.h.id / 4) (0x200000 + 1024 * (s.tile q.tn).base)) .abort))) ∧
  (∀ (s : State) (n k : Nat) (q : Stream) (as : List (Word × Nat)), n < s.h.streams.length →
    (∀ d, d ≠ .abort → s.denyStream n q as k d = s.failStream n q (statusOf d)) ∧
    (∃ (die location : Nat), s.denyStream n q as k .abort =
      (s.logError die .abort location s.h.id q.ctxid.toNat).failStream n q 3 ∧ (as = [] → die = dieOfHart s.h.id ∧ location = k)) ∧
    ∀ st, (s.failStream n q st).h.stream n = some { q with status := st, moving := [], reads := [], writes := [] }) ∧
  (∀ (s : State) (n : Nat) (q : Stream), s.h.stream n = some q → q.running = true → q.kind = 2 →
    let w := q.deviceWidth
    let k := localKey (s.h.id / 4) (0x200000 + 1024 * (s.tile q.tn).base)
    let u := s.atHome
    (q.sent = false → s.aborts k (q.total * w) = false → exec (.qredSend s.h.id n) s = .next (u.setStream n
      (some { q with sent := true, held := (List.range q.total).map (fun e => u.readVector (k + e * w) w) }))) ∧
    (q.sent = false → s.aborts k (q.total * w) = true → exec (.qredSend s.h.id n) s = .next (s.denyStream n q [] k .abort)) ∧
    (q.sent = true →
      let t := s.tileOf q.destCore q.destTile
      let c : Contribution := { hart := s.h.id, handle := n, index := q.xb.toNat, vt := q.vt, data := q.held }
      t.alloc = true → t.state = .filling → t.bound = false → t.expected ≠ 0 → q.total * q.deviceWidth ≤ 1024 * t.len →
      t.buffer = [] → q.xb.toNat < t.expected → t.next ≤ q.xb.toNat → q.xb.toNat < t.next + 4 →
      exec (.qredContributionArrival s.h.id n) s = .next
        ((s.onTile q.destCore q.destTile (fun t => { t with buffer := t.buffer ++ [c] })).applyBuffered q.destCore q.destTile 4))) ∧
  (∀ (s : State) (n : Nat) (q : Stream) (ps : List Place), s.h.stream n = some q → q.running = true → q.kind = 3 →
    s.firstFold q = true →
    let w := q.deviceWidth
    let k := localKey (s.h.id / 4) (0x200000 + 1024 * (s.tile q.tn).base)
    let as := (List.range q.total).map (fun e => (q.address e, w))
    let u := s.streamReady q as
    u.streamPlaces q .load w ((List.range q.total).map q.address) = .ok ps → u.aborts k w = false →
    let r := u.streamReads w (ps.map (·.key))
    exec (.qfoldApply s.h.id n) s = .next ((r.1.strike (.vector s.h.id) k w
      (foldOf q.vt (q.mode.getLsbD 0) (r.1.readVector k w) r.2)).completeStream n q))

/-- The prefix N of a stream (R221): when elements have finished, N has grown to the first element that has not, a later arrival is
kept, and a stream whose elements have all finished is complete, its ranges released.
A contribution in its turn (R229): element by element, the tile receives the sum of what it held and the contribution's; its source
completes; the tile counts it, and is READY when it was the last. Where the tile's bytes hold an error, the add is logged, its source fails, and the
tile stays behind its index (R296; log 68: R229 gives this case no outcome).
Where the rules leave a point open, it follows the model's reading in log 68. -/
def Obligations.StreamProgress : Prop :=
  (∀ (s : State) (n e : Nat) (q : Stream), n < s.h.streams.length → q.n ≤ e → e < q.total → q.complete = false →
     ∃ r : Stream, (s.finishElements n q [e]).h.stream n = some r ∧ r.total = q.total ∧ q.n ≤ r.n ∧ r.n ≤ q.total ∧
       (∀ i, q.n ≤ i → i < r.n → i = e ∨ i ∈ q.arrived) ∧ (r.n < q.total → r.n ≠ e ∧ r.n ∉ q.arrived) ∧
       (r.complete = true ↔ r.n = q.total) ∧ (r.complete = true → r.reads = [] ∧ r.writes = [])) ∧
  (∀ (s : State) (core n fuel : Nat) (c : Contribution),
     let t := s.tileOf core n
     t.buffer.find? (fun c => c.index == t.next) = some c →
     let w := vtSew c.vt / 8
     let k := localKey core (0x200000 + 1024 * t.base)
     let u := s.beforeHome (.vector c.hart) k (w * c.data.length)
     let sums := (c.data.zip (List.range c.data.length)).map (fun p => contributionAdd c.vt (readLE u.mem.read (k + p.2 * w) w) p.1)
     (s.aborts k (w * c.data.length) = true → s.applyBuffered core n (fuel + 1) =
       ((s.logError (core / 512) .abort k c.hart (s.hartOf c.hart).ctxid.toNat).failSource c).onTile core n (fun t =>
         { t with buffer := t.buffer.filter (fun d => d.index != c.index) })) ∧
     (s.aborts k (w * c.data.length) = false → s.applyBuffered core n (fuel + 1) = State.applyBuffered
       (((u.perform (.vector c.hart) (cellsOf k (w * c.data.length) (packList (8 * w) sums))).completeSource c).onTile core n (fun t =>
         if t.arrived + 1 = t.expected then
           { t with state := .ready, expected := 0, arrived := 0, next := 0, buffer := [] }
         else { t with arrived := t.arrived + 1, next := t.next + 1, buffer := t.buffer.filter (fun d => d.index != c.index) }))
       core n fuel))

/-! ### Vector arithmetic in a convoy of its own (R20, R27, R112 to R141) -/

/-- Integer instructions (Table 6.8, R115, R116, R118): under a VT of the integer class each completes; every active element below VL
receives its result at the width of VT, every other keeps its value, a test writes its mask, and nothing beside the
destination, its dirty bit, VSTATE and the flow changes.
Where the rules leave a point open, it follows the model's reading in log 10. -/
def Obligations.VectorIntegerResults : Prop :=
  ∀ (v : VArgs) (s : State), vtFmt s.h.vt ≠ 2 → vtFmt s.h.vt ≠ 3 →
    let w := s.h.sew
    let sg := toSigned w
    let clamp := fun (lo hi x : Int) => ofInt w (max lo (min hi x))
    let a := fun (h : Hart) e => h.elem v.vs1.toNat w e
    let each := fun (i : Instr) (op : Nat → Nat → Nat → Nat) => vectorReady i s = true →
      s.retires i (fun h => h.writeEach v w (fun e => op (a h e) (h.second v e) (h.elem v.vd.toNat w e)))
    let test := fun (i : Instr) (p : Nat → Nat → Prop) => vectorReady i s = true → ∃ f : Hart → Hart, s.retires i f ∧
      ∃ q : Nat → Bool, f s.h = s.h.testEach v q ∧ ∀ e, q e = true ↔ p (a s.h e) (s.h.second v e)
    each (.vadd v) (fun x y _ => (x + y) % 2 ^ w) ∧
    each (.vsub v) (fun x y _ => ofInt w ((x : Int) - y)) ∧
    each (.vrsub v) (fun x y _ => ofInt w ((y : Int) - x)) ∧
    each (.vand v) (fun x y _ => x &&& y) ∧
    each (.vor v) (fun x y _ => x ||| y) ∧
    each (.vxor v) (fun x y _ => x ^^^ y) ∧
    each (.vsll v) (fun x y _ => x * 2 ^ (y % w) % 2 ^ w) ∧
    each (.vsrl v) (fun x y _ => x / 2 ^ (y % w)) ∧
    each (.vsra v) (fun x y _ => ofInt w (sg x / 2 ^ (y % w))) ∧
    each (.vmin v) (fun x y _ => ofInt w (min (sg x) (sg y))) ∧
    each (.vmax v) (fun x y _ => ofInt w (max (sg x) (sg y))) ∧
    each (.vminu v) (fun x y _ => min x y) ∧
    each (.vmaxu v) (fun x y _ => max x y) ∧
    each (.vadds v) (fun x y _ => clamp (-(2 ^ (w - 1))) (2 ^ (w - 1) - 1) (sg x + sg y)) ∧
    each (.vsubs v) (fun x y _ => clamp (-(2 ^ (w - 1))) (2 ^ (w - 1) - 1) (sg x - sg y)) ∧
    each (.vaddus v) (fun x y _ => min (2 ^ w - 1) (x + y)) ∧
    each (.vmul v) (fun x y _ => x * y % 2 ^ w) ∧
    each (.vmulh v) (fun x y _ => ofInt w (sg x * sg y / 2 ^ w)) ∧
    each (.vmulhu v) (fun x y _ => x * y / 2 ^ w) ∧
    each (.vmacc v) (fun x y d => (d + x * y) % 2 ^ w) ∧
    test (.vcmpeq v) (fun x y => x = y) ∧ test (.vcmpne v) (fun x y => x ≠ y) ∧
    test (.vcmplt v) (fun x y => sg x < sg y) ∧ test (.vcmpltu v) (fun x y => x < y) ∧
    test (.vcmple v) (fun x y => sg x ≤ sg y) ∧ test (.vcmpleu v) (fun x y => x ≤ y) ∧
    test (.vcmpgt v) (fun x y => sg y < sg x) ∧
    (w ≠ 64 → s.h.vln * (2 * w) ≤ 8192 →
      (vectorReady (.vwiden v) s = true → s.retires (.vwiden v) (fun h => h.writeEach v (2 * w) (fun e =>
        if fmtSigned s.h.vt then ofInt (2 * w) (sg (a h e)) else a h e))) ∧
      (vectorReady (.vnarrow v) s = true → s.retires (.vnarrow v) (fun h => h.writeEach v w (fun e =>
        let x := h.elem v.vs1.toNat (2 * w) e
        if v.ext.getLsbD 0 = false then x % 2 ^ w
        else if fmtSigned s.h.vt then clamp (-(2 ^ (w - 1))) (2 ^ (w - 1) - 1) (toSigned (2 * w) x)
        else min (2 ^ w - 1) x))))

/-- Moves, mask logic, slides, permutations and integer reductions (R117, R129 to R141): each completes with its result, under any
VT but for VIOTA and the reductions, which want the integer class.
Where the rules leave a point open, it follows the model's reading in log 10. -/
def Obligations.CrossElementResults : Prop :=
  ∀ (v : VArgs) (s : State),
    let w := s.h.sew
    let vl := s.h.vln
    let a := fun (h : Hart) e => h.elem v.vs1.toNat w e
    let d := if v.form = 2 then v.imm16.toNat else (s.h.rx v.xs).toNat
    let on := fun (i : Instr) (f : Hart → Hart) => vectorReady i s = true → s.retires i f
    let active := s.h.activeBelow v vl
    let set := active.filter (s.h.maskBit v.vs1.toNat)
    on (.vmv v) (fun h => h.writeEach v w (a h)) ∧
    on (.vid v) (fun h => h.writeEach v w (fun e => e % 2 ^ w)) ∧
    on (.vmerge v) (fun h => h.writeV v.vd.toNat w vl (fun e => if h.takes v e then h.second v e else a h e)) ∧
    on (.vmvsx v) (fun h => h.writeV v.vd.toNat w vl (fun e => if e = 0 then (h.rx v.xs).toNat % 2 ^ w else h.elem v.vd.toNat w e)) ∧
    on (.vmvxs v) (fun h => h.writeX v.xs (BitVec.ofInt 64 (if fmtSigned h.vt then toSigned w (a h 0) else (a h 0 : Int)))) ∧
    on (.kand v) (fun h => h.writeK v.vd.toNat (fun e => h.maskBit v.vs1.toNat e && h.maskBit v.vs2.toNat e)) ∧
    on (.kor v) (fun h => h.writeK v.vd.toNat (fun e => h.maskBit v.vs1.toNat e || h.maskBit v.vs2.toNat e)) ∧
    on (.kxor v) (fun h => h.writeK v.vd.toNat (fun e => h.maskBit v.vs1.toNat e != h.maskBit v.vs2.toNat e)) ∧
    on (.kandn v) (fun h => h.writeK v.vd.toNat (fun e => h.maskBit v.vs1.toNat e && !h.maskBit v.vs2.toNat e)) ∧
    on (.knot v) (fun h => h.writeK v.vd.toNat (fun e => !h.maskBit v.vs1.toNat e)) ∧
    on (.kmv v) (fun h => h.writeK v.vd.toNat (h.maskBit v.vs1.toNat)) ∧
    on (.ksetn v) (fun h => h.writeK v.vd.toNat (fun e => decide (e < (h.rx v.xs).toNat))) ∧
    on (.kpopc v) (fun h => h.writeX v.xs (BitVec.ofNat 64 set.length)) ∧
    on (.kfirst v) (fun h => h.writeX v.xs (match set with | e :: _ => BitVec.ofNat 64 e | [] => BitVec.allOnes 64)) ∧
    on (.vslup v) (fun h => h.writeEach v w (fun e => if d ≤ e then a h (e - d) else h.elem v.vd.toNat w e)) ∧
    on (.vsldn v) (fun h => h.writeEach v w (fun e => if e + d < 8192 / w then a h (e + d) else 0)) ∧
    on (.vperm v) (fun h => h.writeEach v w (fun e =>
      if h.elem v.vs2.toNat w e < 8192 / w then a h (h.elem v.vs2.toNat w e) else 0)) ∧
    on (.vcompress v) (fun h => h.writeV v.vd.toNat w active.length (fun i => a h (active.getD i 0))) ∧
    on (.vexpand v) (fun h => h.writeEach v w (fun e => a h (h.activeBelow v e).length)) ∧
    (vtFmt s.h.vt ≠ 2 → vtFmt s.h.vt ≠ 3 →
      let reduced := fun (h : Hart) (f : Nat → Nat → Nat) => h.writeV v.vd.toNat w 1 (fun _ => (active.map (a h)).foldl f (h.elem v.vs2.toNat w 0))
      on (.viota v) (fun h => h.writeEach v w (fun e => ((h.activeBelow v e).filter (h.maskBit v.vs1.toNat)).length % 2 ^ w)) ∧
      on (.vredsum v) (fun h => reduced h (fun x y => (x + y) % 2 ^ w)) ∧
      (let sg := fmtSigned s.h.vt
       on (.vredmin v) (fun h => reduced h (fun x y => if sg then ofInt w (min (toSigned w x) (toSigned w y)) else min x y)) ∧
       on (.vredmax v) (fun h => reduced h (fun x y => if sg then ofInt w (max (toSigned w x) (toSigned w y)) else max x y))))

/-- Floating-point and block-scaling instructions (R119 to R128, R140, R141): under the VT that each wants it completes; every active
element below VL receives the value that the operation of Flags.lean gives under the format and rounding mode of VT, and FFLAGS the
flags of all of them.
Where the rules leave a point open, it follows the model's reading in log 10, log 46, log 53 and log 54. -/
def Obligations.VectorFloatResults : Prop :=
  ∀ (v : VArgs) (s : State),
    let w := s.h.sew
    let vl := s.h.vln
    let g := formatOf s.h.vt
    let rm := vtRm s.h.vt
    let val := fun (h : Hart) (r w e : Nat) => h.elem r w e
    let read := fpRead g
    let eachF := fun (i : Instr) (dw : Nat) (op : Hart → Nat → Nat × BitVec 5) => vectorReady i s = true →
      s.retires i (fun h => (h.writeEach v dw (fun e => (op h e).1)).orFlags (h.flagsOf v (fun e => (op h e).2)))
    let eachOf := fun (i : Instr) (op : Nat → Nat → Nat → Nat × BitVec 5) =>
      eachF i w (fun h e => op (val h v.vs1.toNat w e) (h.second v e) (val h v.vd.toNat w e))
    let test := fun (i : Instr) (quiet : Bool) (ok : Ordering → Bool) => vectorReady i s = true → s.retires i (fun h =>
      let x := fun e => read (val h v.vs1.toNat w e)
      let y := fun e => read (h.second v e)
      (h.testEach v (fun e => !(x e).isNan && !(y e).isNan && ok (fpCompare (x e) (y e)))).orFlags (h.flagsOf v (fun e =>
        flagIf (if quiet then (x e).isSnan || (y e).isSnan else (x e).isNan || (y e).isNan) flagNV)))
    let reduce := fun (i : Instr) (f : Nat → List (Option Nat) → Nat × BitVec 5) => vectorReady i s = true → s.retires i (fun h =>
      let b := val h v.vs2.toNat w 0
      let r := f b ((upTo vl).map (fun e => if h.takes v e then some (val h v.vs1.toNat w e) else none))
      if vl = 0 then h else (h.writeV v.vd.toNat w 1 (fun _ => fpPass g r.1)).orFlags (r.2 ||| flagIf (read b).isSnan flagNV))
    (vtFmt s.h.vt = 2 ∨ vtFmt s.h.vt = 3 →
      eachOf (.vfadd v) (fun a b _ => fpAddV g rm (read a) (read b)) ∧
      eachOf (.vfsub v) (fun a b _ => fpAddV g rm (read a) (read b).turned) ∧
      eachOf (.vfmul v) (fun a b _ => fpMulV g rm (read a) (read b)) ∧
      eachOf (.vfdiv v) (fun a b _ => fpDivV g rm (read a) (read b)) ∧
      eachOf (.vfsqrt v) (fun a _ _ => fpSqrtV g rm (read a)) ∧
      eachOf (.vfma v) (fun a b c => fpFmaV g rm (read a) (read b) (read c)) ∧
      eachOf (.vfms v) (fun a b c => fpFmaV g rm (read a) (read b) (read c).turned) ∧
      eachOf (.vfnma v) (fun a b c => fpFmaV g rm (read a).turned (read b) (read c)) ∧
      eachOf (.vfmin v) (fun a b _ => fpMinMax g false a b) ∧
      eachOf (.vfmax v) (fun a b _ => fpMinMax g true a b) ∧
      (vectorReady (.vfsgn v) s = true → s.retires (.vfsgn v) (fun h => h.writeEach v w (fun e =>
        fpSign g (v.ext.toNat % 4) (val h v.vs1.toNat w e) (h.second v e)))) ∧
      (vectorReady (.vfclass v) s = true → s.retires (.vfclass v) (fun h => h.writeEach v w (fun e =>
        fpClass g (val h v.vs1.toNat w e)))) ∧
      test (.vfcmpeq v) true (· == .eq) ∧ test (.vfcmplt v) false (· == .lt) ∧ test (.vfcmple v) false (· != .gt) ∧
      reduce (.vfredo v) (orderedSum g rm) ∧ reduce (.vfredt v) (treeReduce g rm) ∧
      reduce (.vfredmin v) (fun b l => foldF (fpMinMax g false) (b, 0) (l.filterMap id)) ∧
      reduce (.vfredmax v) (fun b l => foldF (fpMinMax g true) (b, 0) (l.filterMap id))) ∧
    (let cv := v.ext.toNat % 16
     cvtOk s.h.vt cv = true → vl * cvtSource cv w ≤ 8192 → vl * cvtDest cv w ≤ 8192 →
      eachF (.vfcvt v) (cvtDest cv w) (fun h e => cvtElem cv w rm (val h v.vs1.toNat (cvtSource cv w) e))) ∧
    (let bw := bsWidth v
     let bs := vtBlock s.h.vt
     let blocks := ceilDiv vl bs
     vtFmt s.h.vt = 4 → vl * bw ≤ 8192 → blocks ≤ 1024 →
      (vectorReady (.vbscale v) s = true → s.retires (.vbscale v) (fun h => h.writeV v.vd.toNat 8 blocks (fun j =>
        blockScale (bsFormat v) ((upTo (min vl ((j + 1) * bs) - j * bs)).map (fun i => val h v.vs1.toNat bw (j * bs + i)))))) ∧
      eachF (.vbquant v) w (fun h e => quantElem (bsFormat v) w (val h v.vs2.toNat 8 (e / bs)) (val h v.vs1.toNat bw e)) ∧
      eachF (.vbdeq v) bw (fun h e => dequantElem (bsFormat v) rm w (val h v.vs2.toNat 8 (e / bs)) (val h v.vs1.toNat w e)))

/-- One rounding (R108, R109) loses nothing where it raises no flag: the element, read back, is the value that was rounded, under
every format and rounding mode.
Where the rules leave a point open, it follows the model's reading in log 46. -/
def Obligations.NoFlagMeansExact : Prop :=
  ∀ (f : FpFormat) (rm : Nat) (neg : Bool) (m : Nat) (e : Int),
    f = binary64 ∨ f = binary32 ∨ f = binary16 ∨ f = bfloat16 → (fpRound f rm neg m e false).2 = 0 →
      ∃ (n : Nat) (g : Int), fpRead f (fpRound f rm neg m e false).1 = .fin neg n g ∧
        n * 2 ^ (g - min g e).toNat = m * 2 ^ (e - min g e).toNat

/-- Vector loads, stores and atomics that reach their places (R213 to R218, R249): a load completes with a register whose elements below
VL are the bytes at their places where active and the old elements elsewhere, its translations made again as it runs (R245), the hart's own writes that only their home shows having
been performed before its reads (R269); a store hands its elements over in ascending order, those below 8 bits as one write of the bits
of each byte, and outside a strip its bytes are what the vector agent then reads; VSXADD and the atomics read, add or compare and write
each place in ascending order (log 48), their writes performed as the convoy commits, and a VAMO returns the old values. A trimmed load ends
at its effective length. At VL = 0 none of them accesses an element (R63); a VSXADD or VAMO still seals an open strip (R159). The premise on the hart's shape is kept by every step (StepKeepsShape).
Where the rules leave a point open, it follows the model's reading in log 10, log 32, log 33, log 48. -/
def Obligations.VectorMemoryResults : Prop :=
  ∀ (v : VArgs) (s : State) (cv : Convoy) (p : Nat → Place), s.h.shaped = true →
    let w := s.h.sew
    let vl := s.h.vln
    let n := max 1 (w / 8)
    let d := fun e => s.h.elem v.vd.toNat w e
    let onPlaces := (s.h.activeBelow v vl).map (fun e => (e, p e))
    let va := fun (m : VAddr) e => (s.soleCtx cv).address m v e
    let reads := fun (es : List Nat) (n : Nat) (t : State) => es.foldl (fun t e => t.afterRead (.vector t.h.id) (p e).key n) t
    let entered := fun (m : VAddr) (es : List Nat) (t : State) => if s.h.space = 0 then t.enteredAll (es.map (va m)) else t
    let active := s.h.activeBelow v vl
    let loaded := fun (i : Instr) (m : VAddr) => s.lands i cv m .load v p →
      let len := min vl (cv.trim.getD vl)
      ∃ r : VReg, exec i s = .next (s.effectDone cv (fun t => (reads active n (entered m active t)).mapH (fun h => h.writeReg v.vd.toNat r))) ∧
        r.tag = len * w ∧
        ∀ e, e < len → r.elem w e = if s.h.takes v e then subElem w e (s.readN true (p e).key n) else d e
    let stored := fun (i : Instr) (m : VAddr) => s.lands i cv m .store v p →
      (8 ≤ w → exec i s = .next (s.effectDone cv (fun t => (entered m active t).storeAll (onPlaces.map (fun q => storeOf s.h.ctxid (va m q.1) q.2 n (d q.1)))))) ∧
      (w < 8 → exec i s = .next (s.effectDone cv (fun t => (entered m active t).storeAll ((onPlaces.map (fun q =>
        ({ vector := true, ctxid := s.h.ctxid, va := va m q.1,
           cells := [(q.2.key, BitVec.ofNat 8 (d q.1 % 2 ^ w * 2 ^ (q.1 * w % 8)))],
           mask := BitVec.ofNat 8 ((2 ^ w - 1) * 2 ^ (q.1 * w % 8)), repl := q.2.repl, atom := q.2.atom } : Store))).foldr Store.onto [])))) ∧
      (w < 8 → s.h.loops.opn = false ∨ s.h.loops.sealed = true → s.h.closed = [] → s.h.ssb = [] →
        ∃ t, exec i s = .next t ∧
          (∀ vector k, (∀ e ∈ s.h.activeBelow v vl, k ∉ (p e).homes 0) → t.readByte vector k = s.readByte vector k) ∧
          ∀ e j, e ∈ s.h.activeBelow v vl → (p e).repl = false → j < 8 →
            (∀ f ∈ s.h.activeBelow v vl, (p e).key ∈ (p f).homes 0 → f * w / 8 = e * w / 8) →
            let new := (t.readByte true (p e).key).getLsbD j
            (∀ f ∈ s.h.activeBelow v vl, f * w / 8 = e * w / 8 → f * w % 8 ≤ j → j < f * w % 8 + w → new = (d f).testBit (j - f * w % 8)) ∧
            ((∀ f ∈ s.h.activeBelow v vl, f * w / 8 = e * w / 8 → ¬ (f * w % 8 ≤ j ∧ j < f * w % 8 + w)) →
              new = (s.readByte true (p e).key).getLsbD j)) ∧
      (8 ≤ w → s.h.loops.opn = false ∨ s.h.loops.sealed = true → s.h.closed = [] → s.h.ssb = [] →
        ∃ t, exec i s = .next t ∧
          (∀ vector k, (∀ e ∈ s.h.activeBelow v vl, ∀ j, j < n → k ∉ (p e).homes j) → t.readByte vector k = s.readByte vector k) ∧
          ∀ e j, e ∈ s.h.activeBelow v vl → j < n → (p e).repl = false →
            (∀ f ∈ s.h.activeBelow v vl, e < f → ∀ l, l < n → (p e).key + j ∉ (p f).homes l) →
            (t.readByte true ((p e).key + j)).toNat = d e / 2 ^ (8 * j) % 256)
    let modified := fun (f : Nat → Nat → Nat) => (s.afterIssue cv).beforeAtomic.modifyAll (w / 8) f onPlaces
    let performed := fun (r : State) (t : State) => r.h.closed.foldl State.strikeStore t.beforeAtomic
    let atomic := fun (i : Instr) (op : Nat → Nat → Nat) => s.lands i cv .indexed .atomic v p →
      vtFmt s.h.vt = 0 ∨ vtFmt s.h.vt = 1 → 32 ≤ w →
      let r := modified (fun e old => op old (d e))
      ∃ q : VReg, exec i s = .next (s.effectDone cv (fun t => (performed r.1 (entered .indexed active t)).mapH (fun h => h.writeReg v.vd.toNat q))) ∧ q.tag = vl * w ∧
        ∀ e, e < vl → q.elem w e = (((s.h.activeBelow v vl).zip r.2).lookup e).getD (d e) % 2 ^ w
    loaded (.vld v) .unit ∧ (8 ≤ w → loaded (.vlds v) .strided ∧ loaded (.vldx v) .indexed) ∧
    stored (.vst v) .unit ∧ (8 ≤ w → stored (.vsts v) .strided ∧ stored (.vstx v) .indexed) ∧
    (s.lands (.vldk v) cv .bytes .load v p → exec (.vldk v) s = .next (s.effectDone cv (fun t =>
      (reads (List.range (ceilDiv vl 8)) 1 (entered .bytes (List.range (ceilDiv vl 8)) t)).mapH (fun h => h.writeK v.vd.toNat (fun e =>
        (s.readByte true (p (e / 8)).key).getLsbD (e % 8)))))) ∧
    (s.lands (.vstk v) cv .bytes .store v p → exec (.vstk v) s = .next (s.effectDone cv (fun t => (entered .bytes (upTo (ceilDiv vl 8)) t).storeAll
      ((upTo (ceilDiv vl 8)).map (fun b => storeOf s.h.ctxid (va .bytes b) (p b) 1 ((s.h.k.getD v.vd.toNat 0).toNat % 2 ^ vl / 2 ^ (8 * b) % 256)))))) ∧
    (s.lands (.vsxadd v) cv .indexed .atomic v p → sxaddVt s.h.vt = true →
      let r := modified (fun e old => (sxAdd s.h.vt old (d e)).1)
      exec (.vsxadd v) s = .next (s.effectDone cv (fun t => (performed r.1 (entered .indexed active t)).mapH (fun h =>
        if h.space = 0 then h else h.orFlags (sxFlags s.h.vt d ((s.h.activeBelow v vl).zip r.2)))))) ∧
    atomic (.vamoadd v) (fun x y => (x + y) % 2 ^ w) ∧
    atomic (.vamomin v) (fun x y => if vtFmt s.h.vt = 0 then ofInt w (min (toSigned w x) (toSigned w y)) else min x y) ∧
    atomic (.vamomax v) (fun x y => if vtFmt s.h.vt = 0 then ofInt w (max (toSigned w x) (toSigned w y)) else max x y) ∧
    (vl = 0 → ∀ i, i ∈ [.vld v, .vst v, .vldk v, .vstk v] ∨ (8 ≤ w ∧ i ∈ [.vlds v, .vldx v, .vsts v, .vstx v]) →
      vectorReady i s = true → s.retires i (fun h => h)) ∧
    (vl = 0 → ∀ i, (sxaddVt s.h.vt = true ∧ i = .vsxadd v) ∨
      ((vtFmt s.h.vt = 0 ∨ vtFmt s.h.vt = 1) ∧ 32 ≤ w ∧ i ∈ [.vamoadd v, .vamomin v, .vamomax v]) →
      vectorReady i s = true → s.soleIssue i = some cv → exec i s = .next (s.effectDone cv State.seal))

/-! ### Panes, packed products, hashing -/

/-- Panes (R184, R186 to R189, R198): PCLAIM takes every pane of its range or none, and X[xs] says which; PFREE frees the panes of its
range; MRDROW reads one row of a pane whose width is that of VT; MZERO sets the type at once and is captured.
Where the rules leave a point open, it follows the model's reading in log 10 and log 30. -/
def Obligations.PanesAndRows : Prop :=
  ∀ (v : VArgs) (s : State) (cv : Convoy), s.core.shaped = true →
    let range := paneRange v
    let mine := fun n => (s.core.pane n).owner = some s.h.id
    let p := s.core.pane v.pane
    let w := s.h.sew
    (vectorReady (.pclaim v) s = true → s.soleIssue (.pclaim v) = some cv → v.pane + v.rows < 48 →
      ∃ (t : State) (ans : Word), exec (.pclaim v) s = .next t ∧ t.h.x = (s.h.wx v.xs ans).x ∧ t.mem = s.mem ∧ t.h.v = s.h.v ∧
        ((∀ n ∈ range, (s.core.pane n).owner = none ∨ mine n) → ans = 1 ∧
          ∀ n, n < 48 → t.core.pane n = if n ∈ range then { s.core.pane n with owner := some s.h.id } else s.core.pane n) ∧
        ((∃ n ∈ range, (s.core.pane n).owner ≠ none ∧ ¬ mine n) → ans = 0 ∧ t.core.panes = s.core.panes)) ∧
    (vectorReady (.pfree v) s = true → s.soleIssue (.pfree v) = some cv → v.pane + v.rows < 48 → (∀ n ∈ range, mine n) →
      ∃ t, exec (.pfree v) s = .next t ∧ t.h.x = s.h.x ∧ t.mem = s.mem ∧
        ∀ n, n < 48 → t.core.pane n = if n ∈ range then freePane else s.core.pane n) ∧
    (vectorReady (.mrdrow v) s = true → mine v.pane → p.ty.width = w → p.failed = false →
      s.retires (.mrdrow v) (fun h => h.writeV v.vd.toNat w h.vln (fun e => elemOf w (p.rows.getD v.rows 0) e))) ∧
    (vectorReady (.mzero v) s = true → s.soleIssue (.mzero v) = some cv → mine v.pane →
      exec (.mzero v) s = .next (s.effectDone cv (fun t => (t.onPane v.pane (fun p =>
        { p with ty := mzeroType (v.modMX % 4) })).capture { pane := v.pane, rows := BitVec.allOnes 16, bytes := 0, kind := .mzero })))

/-- Captured updates (R190 to R197, R199): MMA, MCONV and MWRROW complete by capturing an update of the pane, with the bits of its rows;
what the update will do to the rows is fixed by the registers at the capture: MMA adds to each active column of its rows eight
products, MCONV the sums of its extracted fields, MWRROW replaces the elements of one row below VL. At VL = 0 none of them captures
anything (R63).
Where the rules leave a point open, it follows the model's reading in log 10, log 30, log 31. -/
def Obligations.MatrixCaptures : Prop :=
  ∀ (v : VArgs) (s : State) (cv : Convoy) (rows : List (BitVec 8192)), s.h.shaped = true →
    let vl := s.h.vln
    let w := s.h.sew
    let vt := s.h.vt
    let ty := (s.core.pane v.pane).ty
    let pw := ty.width
    let m := v.rows + 1
    let mine := (s.core.pane v.pane).owner = some s.h.id
    let old := fun i c => elemOf pw (rows.getD i 0) c
    let captures := fun (i : Instr) (lo n : Nat) (new : Nat → Nat → Nat) (fl : BitVec 5) => vectorReady i s = true →
      s.soleIssue i = some cv → ∃ u : Update, exec i s = .next (s.effectDone cv (·.capture u)) ∧ u.pane = v.pane ∧
        u.rows = rowBits lo n ∧ (u.kind.apply rows).2 = fl ∧ (u.kind.apply rows).1.length = 16 ∧
        ∀ r c, r < 16 → c < 8192 / pw → elemOf pw ((u.kind.apply rows).1.getD r 0) c = new r c
    let pairs : Nat → Nat → List (Nat × Nat) := fun r c => (upTo 8).map (fun k => (s.h.elem v.vs1.toNat w (8 * r + k), s.h.elem (v.vd.toNat + k) w c))
    let dot : Nat → Nat → Nat × BitVec 5 := fun r c => match vtFmt vt with
      | 0 => (ofInt pw ((old r c : Int) + ((pairs r c).map (fun p => toSigned w p.1 * toSigned w p.2)).sum), 0)
      | 1 => (ofInt pw ((old r c : Int) + ((pairs r c).map (fun p => (p.1 : Int) * (p.2 : Int))).sum), 0)
      | 4 => bsiDot (vtRm vt) w (old r c) (s.h.elem v.vs2.toNat 8 r) (s.h.elem v.vs2.toNat 8 (m + c)) (pairs r c)
      | _ => fpDot (formatOf vt) (paneFormat pw) (vtRm vt) (old r c) (pairs r c)
    let mmaForm := mmaVt vt = true ∧ (vtFmt vt = 4 ∨ v.vs2 = 0)
    let mconvForm := productVt vt = true ∧ s.h.fr v.fMX ≠ 0 ∧ flXMode (s.h.fr v.fMX) = 1
    (vl = 0 → ∀ i, (i = .mma v ∧ mmaForm) ∨ (i = .mconv v ∧ mconvForm) ∨ i = .mwrrow v → vectorReady i s = true →
      s.retires i (fun h => h)) ∧
    (vl ≠ 0 → rows.length = 16 →
    (mine → mmaForm → mmaPane vt ty = true → vl ≤ 8192 / pw →
      captures (.mma v) 0 m (fun r c => if r < m ∧ c < vl ∧ s.h.takes v c = true then (dot r c).1 % 2 ^ pw else old r c)
        (((upTo m).flatMap (fun r => (s.h.activeBelow v vl).map (fun c => (dot r c).2))).foldl (· ||| ·) 0)) ∧
    (mine → ty.width = w → captures (.mwrrow v) v.rows 1
      (fun r c => if r = v.rows ∧ c < vl then s.h.elem v.vd.toNat w c else old r c) 0) ∧
    (mine → ty = .int64 → mconvForm →
      (flGuard (s.h.fr v.fMX) = 1 → ∀ r j g, r < m → j < ceilDiv vl 2 → g ≤ v.fwd →
        wordsHold (s.h.fr v.fMX) ((s.soleCtx cv).signal v r j) ((s.soleCtx cv).filterWord v g) = true) →
      let b := if v.modMX % 2 = 1 then 8 else 0
      b + m ≤ 16 → captures (.mconv v) b m (fun r c => if b ≤ r ∧ r < b + m then
        ofInt 64 ((old r c : Int) + ((s.soleCtx cv).convRow v (r - b)).getD c 0) else old r c) 0))

/-- MATRIX_UPDATE_APPLY (R197, R200, R201): a captured update that no earlier entry of its rows stands before is applied: the entry leaves
the queue, the pane's rows are what the update makes of them, its flags join FFLAGS, and the bits of rows with nothing pending
clear; one that has to wait changes nothing. -/
def Obligations.MatrixUpdateApplies : Prop :=
  ∀ (s : State) (n : Nat) (err : Bool) (u : Update), s.h.mq[n]? = some u →
    let blocked := ∃ e ∈ s.h.mq.take n, e.pane = u.pane ∧ e.rows &&& u.rows ≠ 0
    (blocked → exec (.matrixUpdateApply s.h.id n err) s = .next s) ∧
    (¬ blocked → ∃ t, exec (.matrixUpdateApply s.h.id n err) s = .next t ∧ t.h.mq = s.h.mq.take n ++ s.h.mq.drop (n + 1) ∧
      t.h.fflags = s.h.fflags ||| (u.kind.apply (s.core.pane u.pane).rows).2 ∧ t.h.x = s.h.x ∧ t.h.v = s.h.v ∧ t.mem = s.mem ∧
      t.h.pc = s.h.pc ∧ (∀ q, q ≠ u.pane → t.core.pane q = s.core.pane q) ∧
      (u.pane < s.core.panes.length → (t.core.pane u.pane).rows = (u.kind.apply (s.core.pane u.pane).rows).1 ∧
        (t.core.pane u.pane).owner = (s.core.pane u.pane).owner ∧ (t.core.pane u.pane).ty = (s.core.pane u.pane).ty ∧
        ((t.core.pane u.pane).failed = true ↔ err = true ∨ (u.kind ≠ .mzero ∧ (s.core.pane u.pane).failed = true)) ∧
        ∀ b, b < 16 → (t.core.pane u.pane).chain.getLsbD b = ((s.core.pane u.pane).chain.getLsbD b &&
          t.h.mq.any (fun e => e.pane == u.pane && e.rows.getLsbD b))))

/-- Field layouts and packed words (R167 to R177): FLSET keeps a layout that passes its checks, FLGET reads it; VPACK packs elements at the
pitch of the layout; VPCONV and VPCONVA multiply the words of two registers and place the fields of the products; VFEXT places the
fields of the words of one. At VL = 0 the four that use VL do nothing.
Where the rules leave a point open, it follows the model's reading in log 10 and log 31. -/
def Obligations.PackedResults : Prop :=
  ∀ (v : VArgs) (s : State),
    let x := s.h.rx v.xs
    let f := s.h.fr v.fPK
    let vl := s.h.vln
    let w := s.h.sew
    let nw := ceilDiv vl 2
    let ow := flXWb f
    let word : Nat → Nat → Nat := fun r j => (if 2 * j + 1 < vl then s.h.elem r 64 (2 * j + 1) else 0) * 2 ^ 64 + (if 2 * j < vl then s.h.elem r 64 (2 * j) else 0)
    let a := fun j => readSigned (flSA f) 128 (word v.vs1.toNat j)
    let b := fun j => readSigned (flSB f) 128 (word v.vs2.toNat (if v.modPK % 2 = 1 then 0 else j))
    let placed := fun (h : Hart) (acc : Bool) (outs : List (List Int)) => h.writeV v.vd.toNat ow (outputCount f nw) (fun o =>
      ofInt ow ((if acc then (h.elem v.vd.toNat ow o : Int) else (0 : Int)) + outputAt f outs o))
    let products := (upTo nw).map (fun j => extractFields f (a j * b j))
    let value : Nat → Int := fun e => if vl ≤ e then 0 else if fmtSigned s.h.vt then toSigned w (s.h.elem v.vs1.toNat w e) else (s.h.elem v.vs1.toNat w e : Int)
    (vectorReady (.flset v) s = true → x = 0 ∨ (layoutOk x = true ∧ staticOk x = true) →
      s.retires (.flset v) (fun h => { h with f := h.f.set v.fPK x })) ∧
    (vectorReady (.flget v) s = true → s.retires (.flget v) (fun h => h.wx v.xs f)) ∧
    (vl = 0 → ∀ i, i = .vpack v ∨ i = .vpconv v ∨ i = .vpconva v ∨ i = .vfext v → vectorReady i s = true → s.retires i (fun h => h)) ∧
    (vl ≠ 0 → f ≠ 0 →
      (let opb := v.modPK / 2 % 2 = 1
       let n := if opb then flNB f else flNA f
       let wf := if opb then flWB f else flWA f
       let sg := if opb then flSB f else flSA f
       let words := ceilDiv vl n
       vectorReady (.vpack v) s = true → packVt s.h.vt = true → words ≤ 64 →
       (flGuard f = 2 ∨ ∀ e, e < words * n → inField wf sg (value e) = true) →
        s.retires (.vpack v) (fun h => h.writeV v.vd.toNat 128 words (fun j => ofInt 128 ((upTo n).map (fun i =>
          value (j * n + i) * (2 ^ ((if v.modPK % 2 = 1 then n - 1 - i else i) * flP f) : Int))).sum))) ∧
      (productVt s.h.vt = true → outputCount f nw * ow ≤ 8192 →
        ((flGuard f = 1 → ∀ j, j < nw → wordsHold f (a j) (b j) = true) →
          (vectorReady (.vpconv v) s = true → s.retires (.vpconv v) (fun h => placed h false products)) ∧
          (vectorReady (.vpconva v) s = true → s.retires (.vpconva v) (fun h => placed h true products))) ∧
        (vectorReady (.vfext v) s = true → s.retires (.vfext v) (fun h => placed h false
          ((upTo nw).map (fun j => extractFields f (readSigned (flOS f) 128 (word v.vs1.toNat j)))))))) 

/-- Hash instructions (R251 to R263): HFSET keeps a family that passes its checks; HCODE gives each element the code of its signs, round
by round, from the pane that its pane field denotes under rotation (log 49); HPROBE places the lines that its codes lead to; HINS and
HDEL change the table element by element, their writes performed as the convoy commits; HREHASH captures passes of a table under
rehash; HFENCE, once the hart's migrations have ended, performs every write of the vector agent, whatever the scope (log 8); HSTAT reads
the descriptor. What reads or changes a table stands behind the vector agent's own writes and what its die sends to others (log 45). At VL =
0 a probe, insert or
delete accesses nothing, but reports the failure that the hart holds for its descriptor (R261; log 34); an insert or delete still seals an open
strip (R159). An element that is refused refuses the word, whichever element an abort completion meets (R259).
Where the rules leave a point open, it follows the model's reading in log 8, log 10, log 33, log 34, log 42, log 45 and log 49. -/
def Obligations.HashResults : Prop :=
  ∀ (v : VArgs) (s : State) (cv : Convoy),
    let c := s.soleCtx cv
    let vl := s.h.vln
    let x := s.h.rx v.xs
    let fam := s.h.hr v.hHS
    let ready := fun (i : Instr) => vectorReady i s = true ∧ s.soleIssue i = some cv
    let codes := hfCodes fam
    let p := s.core.pane (s.h.loops.physical v.hPane)
    let drained := State.atHome
    let updates := fun (i : Instr) (step : Table → State → Nat → Nat → Except HFail (State × Bool × Nat)) (also : List (Nat × Bool × Nat) → Hart → Hart) =>
      ∀ (t : Table) (u : State) (rs : List (Nat × Bool × Nat)), ready i → c.table v .atomic readHome (some fam) = .ok t →
        tableSteps (fun s1 e => step t s1 (s.h.elem v.vs1.toNat 32 e) (s.h.elem v.vs2.toNat 32 e)) none (drained (s.atRetire cv).beforeAtomic)
          (s.h.activeBelow v vl) = .ok (u, rs) →
        exec i s = .next (s.effectDone cv (fun r => ((u.h.closed.foldl State.strikeStore r.beforeAtomic).enteredAll (t.opened c.s u)).mapH
          (fun h => also rs (h.writeK v.vd.toNat (fun e => match stepOf rs e with | some r => r.1 | none => h.maskBit v.vd.toNat e)))))
    (vectorReady (.hfset v) s = true → familyOk x = true → s.retires (.hfset v) (fun h => { h with hf := h.hf.set v.hHS x })) ∧
    (vl ≠ 0 → hashVt s.h.vt = true → fam ≠ 0 →
      (vectorReady (.hcode v) s = true → p.owner = some s.h.id → p.ty ≠ .none → vl ≤ 16 * codes →
        hfC0 fam + hfL fam * hfK fam ≤ 8192 / p.ty.width → p.failed = false →
        s.retires (.hcode v) (fun h => h.writeV v.vd.toNat 32 vl (fun e =>
          let row := p.rows.getD (e / codes) 0
          let j := e % codes
          codeOf (j / hfL fam) ((upTo (hfK fam)).map (fun b => signMag p.ty
            (elemOf p.ty.width row (hfC0 fam + j % hfL fam * hfK fam + b))))))) ∧
      (∀ (t : Table) (ls : List (Nat × BitVec 512)), ready (.hprobe v) → vl ≤ 8 → c.probeTable v = .ok t →
        c.probes v t (s.h.activeBelow v vl) = .ok ls → exec (.hprobe v) s = .next ((c.effect drained).putProbes v ls).retire ∧
          ls.map (·.1) = s.h.activeBelow v vl ∧ (cv.probes = [] → ∀ q ∈ ls, c.probe v t q.1 = .ok q.2)) ∧
      updates (.hins v) Table.hins (fun rs h => h.writeV v.ve 32 vl (fun e => match stepOf rs e with | some r => r.2 | none => h.elem v.ve 32 e)) ∧
      updates (.hdel v) Table.hdel (fun _ h => h)) ∧
    (vl = 0 → ∀ i ∈ [Instr.hprobe v, .hins v, .hdel v], ready i → hashVt s.h.vt = true → fam ≠ 0 →
      (s.h.heldFail.all (fun g => g.desc != x) = true → exec i s = .next (s.effectDone cv (if i = .hprobe v then id else State.seal))) ∧
      (∀ g, s.h.stopped = false → s.h.heldFail.find? (fun g => g.desc == x) = some g →
        exec i s = .next ((s.atRetire cv).discardQueues.stopAt (.held x
          { cause := g.cause, bp := 0, epc := s.h.pc, eval := g.address, eelem := 0, elane := 0 })))) ∧
    (∀ t : Table, ready (.hrehash v) → c.table v .atomic readAgent none = .ok t → t.rehash c.s = true →
      exec (.hrehash v) s = .next (s.effectDone cv (fun u => (drained u).seal.mapH (fun h => { h with migr := h.migr ++
        [{ desc := x, passes := v.modHS % 2 ^ 16, ctxid := h.ctxid, sup := h.trap.sup, age := s.dev.steps }] })))) ∧
    (∀ (step : State → Nat → Except HFail (State × Bool × Nat)) (u : State) (before after : List Nat) (w : State) (rs : List (Nat × Bool × Nat))
        (e : Nat) (f : HFail), tableSteps step none u before = .ok (w, rs) → step w e = .error f →
      (f.abort = false → tableSteps step none u (before ++ e :: after) = .error (f, e)) ∧
      (f.abort = true →
        (∀ q, tableSteps step none w after = .ok q → tableSteps step none u (before ++ e :: after) = .error (f, e)) ∧
        (∀ g a, tableSteps step none w after = .error (g, a) → tableSteps step none u (before ++ e :: after) =
          .error (if g.abort then (f, e) else (g, a))))) ∧
    (ready (.hfence v) → s.h.heldFail = [] → s.h.migr = [] ∧
      exec (.hfence v) s = .next (s.effectDone cv (fun u => u.flushClosed.drainWhere (ownVector s.h.id)))) ∧
    (∀ t : Table, ready (.hstat v) → c.table v .load readAgent none = .ok t →
      exec (.hstat v) s = .next (s.effectDone cv (fun u => (drained u).mapH (fun h =>
        h.writeReg v.vd.toNat (VReg.build 64 8 (fun i => (t.dword c.s i).toNat))))))

/-! ### Convoys (R15, R20, R26 to R29, R68, R149, R151, R333) -/

/-- A convoy from its push to its retirement: a header off its place is refused with ALIGN, a field of it that Table 2.6 refuses with ENC
or ILL, a convoy that passes a LEND with LESC, a stage that no level gates with LNEST, one under VSTATE 0 with FIRST; a convoy
that its stage predicate gates off has no effect; any other waits in the queue, in order. Its issue refuses a word that VT does
not suit with ILL at the word's address; it issues once it is ready, under the GRANT of that moment. It retires whole, behind what its words
that check a result of a table have to wait for: when a slot is refused, nothing of it is seen beside the translations of its memory words in the TLBs
(R245), and the trap names the header; 2,000 counts
after a request for a trap it is discarded (R292). The codes of an HPROBE are read in ascending order, what a load before it reads being read
once for all of them and for the retirement (R260). A vector instruction alone, of a convoy that VT does not suit, is refused the same way.
A mismatch in protected mode (R298, R299) of an element that both lanes of a pair process discards the convoy, counts for the primary
lane, sets bits n and n + 4 of LANEDIS at the second on the lane, is logged, and rewinds the strip or raises DATA or STRIP by Table 8.7.
Where the rules leave a point open, it follows the model's reading in log 10, log 24, log 34, log 36 and log 58. -/
def Obligations.ConvoysRunWhole : Prop :=
  (∀ (h : ConvoyHeader) (ws : List Word) (s : State),
    let next := s.h.pc + BitVec.ofNat 64 (4 + 8 * h.count)
    let i : Instr := .convoy h ws
    (s.h.pc.toNat % 8 ≠ 4 → exec i s = s.trapped .align s.h.pc) ∧
    (s.h.pc.toNat % 8 = 4 → h.encOk = false → exec i s = s.trapped .enc s.h.pc) ∧
    (s.h.pc.toNat % 8 = 4 → h.encOk = true → h.illOk = false → exec i s = s.trapped .ill s.h.pc) ∧
    (∀ is, checkConvoy s.h.pc h ws = .ok is →
      let run := if h.stg then (s.h.loops.gate h.stage.toNat).map (fun l => l.sp.getLsbD h.stage.toNat) else some true
      (s.h.loops.overruns s.h.pc next = true → exec i s = s.trapped .lesc 0) ∧
      (s.h.loops.overruns s.h.pc next = false →
        (run = none → exec i s = s.trapped .lnest 0) ∧
        (run ≠ none → s.h.vstate = 0 → exec i s = s.trapped .first 0) ∧
        (run = some false → s.h.vstate ≠ 0 → exec i s = .next (s.advanceTo next)) ∧
        (run = some true → s.h.vstate ≠ 0 → exec i s = .next (s.mapH (fun h =>
          { h with convoys := h.convoys ++ [newConvoy h.pc next is s.dev.steps] })))))) ∧
  (∀ (s : State) (cv : Convoy) (rest : List Convoy), s.h.convoys = cv :: rest → cv.issued = false →
    let turn := (upTo 4).any (fun j => 4 * s.core.id + j != s.h.id && s.yieldsTo cv (4 * s.core.id + j)) = false
    (∀ x, cv.illFrom s 0 cv.words = some x → exec (.convoyIssue s.h.id) s = .next (s.raise x)) ∧
    (cv.illFrom s 0 cv.words = none →
      (∀ c, s.lostCluster = some c → s.h.unsealed = false → exec (.convoyIssue s.h.id) s = .next (s.raise
        { cause := .lane, bp := 0, epc := cv.pc, eval := 0, eelem := 0, elane := 4 * c })) ∧
      (∀ c, s.lostCluster = some c → s.h.unsealed = true → exec (.convoyIssue s.h.id) s = .next (s.rewind false)) ∧
      (s.lostCluster = none → s.ready cv = none → exec (.convoyIssue s.h.id) s = .next s) ∧
      (∀ c vas, s.lostCluster = none → turn → s.ready cv = some (c, vas) → ∃ t : State,
        exec (.convoyIssue s.h.id) s = .next (if cv.words.any readsTable then t.atHome else t) ∧
        t.h = { s.h with convoys := c :: rest } ∧ c.issued = true ∧ c.words = cv.words ∧ c.grant = s.h.grant ∧ t.mem = s.mem ∧
        t.dev = { s.dev with tlb2 := t.dev.tlb2, channels := t.dev.channels } ∧ t.core.rrIssue = (s.h.id % 4 + 1) % 4))) ∧
  (∀ (s : State) (cv : Convoy) (rest : List Convoy), s.h.convoys = cv :: rest → cv.issued = true →
    let held := ∃ i ∈ cv.words, holdsRetirement i s = true
    (s.h.overdue s.dev.time = true → exec (.convoyRetire s.h.id) s = .next s.discardQueues) ∧
    (s.h.overdue s.dev.time = false → held → exec (.convoyRetire s.h.id) s = .next s) ∧
    let r := s.tablesRead cv
    (lateWord cv.words = false → r.settled cv = some (cv, [])) ∧
    (s.h.overdue s.dev.time = false → ¬ held → r.settled cv = none → exec (.convoyRetire s.h.id) s = .next s) ∧
    (∀ cv1 vas, s.h.overdue s.dev.time = false → ¬ held → r.settled cv = some (cv1, vas) →
      let u := r.enteredAll vas
      (∀ c, runSlots cv.words (Ctx.start u cv1) = .ok c → exec (.convoyRetire s.h.id) s = .next c.retire) ∧
      (∀ x, s.h.stopped = false → runSlots cv.words (Ctx.start u cv1) = .error (.trap x) →
        ∃ t, exec (.convoyRetire s.h.id) s = .next t ∧
        t = (u.enteredAll (memoryAddresses cv.words (Ctx.start u cv1))).discardQueues.raise x ∧ t.h.x = s.h.x ∧ t.h.v = s.h.v ∧ t.h.k = s.h.k ∧ t.h.fflags = s.h.fflags ∧
        t.h.f = s.h.f ∧ t.h.hf = s.h.hf ∧ (s.h.trap.te = true → s.h.trap.dbga = false → t.h.mq = s.h.mq ∧ t.h.trap.epc = x.epc))) ∧
    (∀ e : Nat,
      let u := s.atHome
      let r := u.latched cv.words (Ctx.start u cv)
      let cv1 := { cv with loaded := r.2 }
      let step := fun e => Ctx.readStep cv.words (Ctx.start r.1 cv1) e
      (∀ b vas, step e = some (b, vas) → exec (.hprobeReadStep s.h.id e) s =
        .next ((r.1.enteredAll vas).mapH (fun h => { h with convoys := { cv1 with probes := cv.probes ++ [(e, b)] } :: rest }))) ∧
      (step e = none → exec (.hprobeReadStep s.h.id e) s = .next s) ∧
      (step e ≠ none → (∀ f, f ≠ e → step f = none) ∧
        ∀ v is, cv.words = .hprobe v :: is → ∀ f, f < e → f ∈ (Ctx.start u cv).actives v → cv.probes.any (fun p => p.1 == f) = true))) ∧
  (∀ (s u : State) (l : List Move) (slot e : Nat) (operand : Bool) (cv : Convoy) (rest : List Convoy) (i : Instr) (op : VOp) (v : VArgs)
    (c : Ctx), s.agenda = .mismatch s.h.id slot e operand :: l → u = ({ s with agenda := l } : State).tick →
    u.h.id = s.h.id → u.h.convoys = cv :: rest → cv.issued = true → u.h.pmodeNow = true →
    convoySlot slot cv.words (Ctx.start u (u.running cv)) = some (i, op, v, c) → c.mirrors i op v e operand = true →
    let t := c.mismatchInfo i e operand
    let n := u.core.mismatch.getD t.elane 0 + 1
    let counted := u.discardQueues.mapCore (fun k => { k with
      mismatch := k.mismatch.set t.elane n,
      lanedis := if 2 ≤ n then k.lanedis ||| BitVec.ofNat 8 (2 ^ (t.elane / 4)) ||| BitVec.ofNat 8 (2 ^ (t.elane / 4 + 4)) else k.lanedis })
    let logged := counted.logHart .mismatch t.elane
    (u.h.loops.opn = false → step s = .next (logged.raise { t with cause := .data })) ∧
    (u.h.loops.opn = true → u.h.loops.sealed = true → step s = .next (logged.raise { t with cause := .strip })) ∧
    (u.h.loops.opn = true → u.h.loops.sealed = false → u.h.loops.rewinds.toNat < u.h.retry.toNat → step s = .next (logged.rewind true)) ∧
    (u.h.loops.opn = true → u.h.loops.sealed = false → u.h.retry.toNat ≤ u.h.loops.rewinds.toNat →
      step s = .next (logged.raise { t with cause := .data }))) ∧
  (∀ (i : Instr) (s : State) (op : VOp) (v : VArgs), vectorReady i s = true → opOf i = some (op, v) →
    exec i s = s.runVector i ∧
    (let lane := if op.named then laneOf s.h.grant s.h.sew 0 else 0
     op.ill v (s.queued i) = true → exec i s = .next ((s.queued i).raise
      { cause := .ill, bp := 0, epc := s.h.pc, eval := s.h.pc + 4, eelem := 0, elane := lane })) ∧
    ∀ cv c, op.ill v (s.queued i) = false → s.soleIssue i = some cv → op.run v (s.soleCtx cv) = .ok c → exec i s = .next c.retire)

/-! ### Reset and invariants -/

/-- What reset leaves (Table 5.3, Table 19.2, R102, R144, R184, R207, R297, R299, R324): no hart active, every hart with TE 1 and SUP 0, VSTATE 1,
RETRY 1, no level active, nothing under way; panes and tiles free; every link alive; LIVE, HARVEST and RETRY as the Hearths'
windows give them; the memory canonical. The registers that the spec gives no reset value read 0, which is the model's
choice (log 2).
Where the rules leave a point open, it follows the model's reading in log 5. -/
def Obligations.ResetValues : Prop :=
  let s := State.reset
  s.shaped = true ∧ (∀ id, (s.hartOf id).active = false ∧ (s.hartOf id).trap.te = true ∧ (s.hartOf id).trap.sup = false ∧
    (s.hartOf id).vstate = 1 ∧ (s.hartOf id).retry = 1 ∧ (s.hartOf id).loops.lact = 0 ∧ (s.hartOf id).fflags = 0 ∧
    (s.hartOf id).grant = 0 ∧ (s.hartOf id).id = id ∧ (s.hartOf id).convoys = [] ∧ ∀ r, (s.hartOf id).rx r = 0) ∧
  (∀ k, (s.coreOf k).lanedis = 0 ∧ (∀ n, (s.coreOf k).pane n = freePane) ∧ ∀ n, (s.coreOf k).tiles.getD n freeTile = freeTile) ∧
  s.dev.time = 0 ∧ s.dev.rver = 0 ∧ s.dev.live = 0x7FFF ∧ s.dev.fails = 0 ∧ s.dev.lost = 0 ∧
  ∀ die, die < 6 → s.mem.dword (windowKey die 8) = 0x7FFF00 ∧ s.mem.dword (windowKey die 0) = 0xFFFFFFFFF ∧
    ∀ c, c < 1024 → field (s.contextDword c 2) 34 4 = 1

/-- Every step keeps the canonical form of memory: addresses strictly rising, no entry that says what an unlisted address reads
as, from every state that has it.
Where the rules leave a point open, it follows the model's reading in log 4. -/
def Obligations.StepKeepsMemoryCanonical : Prop :=
  ∀ s t : State, s.mem.wf = true → step s = .next t → t.mem.wf = true

/-- Every step keeps every part of the machine in its number: 32 X, 48 V and 12 K registers, 8 F and 4 H registers, 16 streams, four loop
levels live, shadowed and in the checkpoint, 48 panes, 64 tiles, and VL and VLCAP elements of the width of VT within a register (R58, R60,
R71, R98, R129, R143, R168, R183, R207, R221, R300). -/
def Obligations.StepKeepsShape : Prop :=
  ∀ s t : State, s.shaped = true → step s = .next t → t.shaped = true

/-- User mode ends only at the trap vector (R90, R94, R286 to R289): no instruction of a hart in user mode changes CTXID, TVEC or the debug bit,
and one after which the hart is in supervisor mode has entered the handler, with user mode saved and traps disabled. -/
def Obligations.UserModeEndsAtTheVector : Prop :=
  ∀ (i : Instr) (s t : State), spontaneous i = false → s.h.trap.sup = false → exec i s = .next t →
    t.h.id = s.h.id ∧ t.h.ctxid = s.h.ctxid ∧ t.h.trap.tvec = s.h.trap.tvec ∧ t.h.trap.dbga = s.h.trap.dbga ∧
    (t.h.trap.sup = true → t.h.pc = s.h.trap.tvec ∧ t.h.trap.psup = false ∧ t.h.trap.te = false ∧ t.h.trap.live = true)

/-- Every instruction and every event answers with a next state in every state, except an external message that names memory
that no device has, which faults (R237; the fault is the model's way to say so).
Where the rules leave a point open, it follows the model's reading in log 44. -/
def Obligations.ExecAlwaysAnswers : Prop :=
  ∀ (i : Instr) (s : State), (∀ m, i = .uetMessage m → messageOk m = true) → ∃ t, exec i s = .next t

/-! ### Events beside the instructions -/

/-- Events of a core (R242, R245, R248, R261, R269, R296): a migration runs its passes one by one, its writes performed behind the vector
agent's, behind the streams of the hart that it had started before and that meet the pass's lines (R269; log 57), ends after its last, and a pass
that fails ends it with the failure logged and held; a walk that finds a leaf puts it into the
core's and the cluster's TLB, and beside the numbers of the requests of a walk changes nothing else; an accepted write is performed at its
home once its order allows, or is logged where its die is
lost; an abort completion that meets a read of the hart's issued convoy, or of the word at its PC, is logged, and resolved by the strip's
state, sealed first where the word seals it (R159), the elements before it performed where Table 19.7 says so and no element is refused (R214, R259),
and one that meets no read changes nothing; its die is the one whose
controller finds it (log 61).
CLUSTER_RELEASE (R55): a cluster passes to the first hart in line once the hart that has it names it no longer and has no convoy
unretired that it issued while it named it, or when nobody has it; until then nothing changes.
Where the rules leave a point open, it follows the model's reading in log 8, log 34, log 42, log 45, log 47, log 57, log 59 and log 61. -/
def Obligations.CoreEvents : Prop :=
  ((∀ (s : State) (m : Migration) (l : List Migration) (tb : Table), s.h.migr = m :: l →
     let s0 := s.atHome.mapH (fun h => { h with closed := [], ssb := [] })
     let lines := s.passLines m
     (∀ abort, (∃ o ∈ s.h.streams, ∃ q, o = some q ∧ q.running = true ∧ q.age < m.age ∧
       ∃ a ∈ lines, inRanges (q.reads ++ q.writes) (a.toNat / 64 * 64) 64 = true) → exec (.hrehashPass s.h.id abort) s = .next s) ∧
     (s.passWaits m lines = false →
     openTable s0 m.desc .atomic m.ctxid m.sup readHome (fun t atom => t.good s0 atom none) = .ok tb →
     (tb.rehash s0 = false → ∀ abort, exec (.hrehashPass s.h.id abort) s =
       .next ((s.enteredFor m.ctxid [m.desc]).mapH (fun h => { h with migr := l }))) ∧
     (∀ u, tb.rehash s0 = true → tb.pass s0 = .ok u → exec (.hrehashPass s.h.id false) s =
       .next ((((u.h.closed.foldl State.strikeStore s0).mapH (fun h => { h with closed := s.h.closed, ssb := s.h.ssb })).enteredFor m.ctxid
         (m.desc :: tb.passed s0 u)).mapH (fun h => { h with migr := if m.passes ≤ 1 then l else { m with passes := m.passes - 1 } :: l }))) ∧
     (∀ e : HFail, tb.rehash s0 = true → tb.pass s0 = .error e → exec (.hrehashPass s.h.id false) s =
       .next (((s.logError (dieOfHart s.h.id) .migration e.addr.toNat s.h.id m.ctxid.toNat).enteredFor m.ctxid
         (m.desc :: tb.passed s0 s0)).mapH (fun h => { h with migr := l, heldFail := h.heldFail ++ [{ desc := m.desc, cause := e.cause, address := e.addr }] }))))) ∧
   (∀ (s : State) (a : Word),
     (∀ d, s.leafOf s.h.ctxid.toNat a = .error d → exec (.tlbWalkComplete s.h.id a) s = .next (s.walkAsked s.h.ctxid a)) ∧
     (∃ cs, s.walkAsked s.h.ctxid a = s.mapDev (fun d => { d with channels := cs })) ∧
     (∀ e level, s.leafOf s.h.ctxid.toNat a = .ok (e, level) → ∃ t, exec (.tlbWalkComplete s.h.id a) s = .next t ∧
       (∃ x ∈ t.core.tlb, x.ctxid = s.h.ctxid ∧ x.va ≤ a.toNat ∧ a.toNat < x.va + x.size ∧ x.leaf = e ∧
         (s.clusterOf s.core.id, x) ∈ t.dev.tlb2 ∧ (∀ y ∈ t.core.tlb, y = x ∨ y ∈ s.core.tlb) ∧
         ∀ q ∈ t.dev.tlb2, q = (s.clusterOf s.core.id, x) ∨ q ∈ s.dev.tlb2) ∧
       t.core.tlb.length ≤ 192 ∧ (t.dev.tlb2.filter (fun q => q.1 == s.clusterOf s.core.id)).length ≤ 4096 ∧
       (∀ q ∈ s.dev.tlb2, q.1 ≠ s.clusterOf s.core.id → q ∈ t.dev.tlb2) ∧
       t.h = s.h ∧ t.core = { s.core with tlb := t.core.tlb } ∧ t.harts = s.harts ∧ t.cores = s.cores ∧ t.mem = s.mem ∧
       t.dev = { s.dev with tlb2 := t.dev.tlb2, channels := t.dev.channels })) ∧
   (∀ (s : State) (n : Nat) (w : Write), s.dev.writes[n]? = some w →
     (w.mayPass s.forwarding (s.dev.writes.take n) = false → exec (.cellarUpdate n) s = .next s) ∧
     (w.mayPass s.forwarding (s.dev.writes.take n) = true → ∃ t, exec (.cellarUpdate n) s = .next t ∧
       t.dev.writes = s.dev.writes.take n ++ s.dev.writes.drop (n + 1) ∧
       (w.done = true → t.mem = s.mem) ∧
       (w.done = false → s.dev.lost.getLsbD w.target = false →
         t.mem = s.mem.writes (w.cells.map (fun c => (c.1, (s.mem.read c.1 &&& ~~~ w.mask) ||| (c.2 &&& w.mask))))) ∧
       (w.done = false → s.dev.lost.getLsbD w.target = true →
         (∃ v : LogEvent, t.dev.errors = s.dev.errors ++ [v] ∧ v.kind = .abort ∧ v.die = w.source ∧ v.ctxid = w.ctxid.toNat) ∧
         (s.mem.wf = true → ∀ k, (∀ o, o < 2 ^ 20 → k ≠ windowKey w.source o) → t.mem.read k = s.mem.read k)) ∧
       (w.done = false → s.dev.lost.getLsbD w.target = false → w.mask ≠ 0xFF → t.dev.poison = s.dev.poison) ∧
       t.h.x = s.h.x ∧ t.h.pc = s.h.pc)) ∧
   (∀ (s : State) (a : Word) (e l : Nat),
     let info := fun (epc : Word) =>
       ({ cause := .data, bp := 0, epc := epc, eval := a, eelem := e, elane := l } : TrapInfo)
     let resolved := fun (u : State) (die : Nat) (epc : Word) => (u.logError die .abort a.toNat u.h.id u.h.ctxid.toNat).requestRewind (info epc)
     let found := fun (u : State) => if localBase ≤ a.toNat then dieOfHart u.h.id else u.finder u.h.ctxid (dieOfHart u.h.id) a
     s.h.active = true → s.h.stopped = false → s.h.halted = false →
     (∀ cv rest, s.h.convoys = cv :: rest → cv.issued = true → readerOf a e l cv.words (Ctx.start s (s.running cv)) = none →
       exec (.abortCompletion s.h.id a e l) s = .next s) ∧
     (∀ cv rest i c, s.h.convoys = cv :: rest → cv.issued = true → readerOf a e l cv.words (Ctx.start s (s.running cv)) = some (i, c) →
       exec (.abortCompletion s.h.id a e l) s =
         .next (resolved (if performsBelow i c then (if sealsStrip i then s.seal else s).partWord i c e
           else if sealsStrip i then s.seal else s).discardQueues (s.wordFinder i a) cv.pc) ∧
         (performsBelow i c = true → ∀ op v x, opOf i = some (op, v) → op.run v c = .error x → ∃ t, x = .abort t)) ∧
     (∀ i, s.h.convoys = [] → s.h.wait = .none → s.h.squeue = [] → s.h.ahead = [] → e = 0 → l = 0 → s.fetch = .instr i →
       (a ∈ (s.dataReads i).1 → exec (.abortCompletion s.h.id a e l) s =
         .next (let u := if (s.dataReads i).2 then s.seal else s; resolved u (found u) s.h.pc)) ∧
       (a ∉ (s.dataReads i).1 → a = s.h.pc ∨ (∃ j, j < byteLength i / 8 ∧ a = s.h.pc + 4 + BitVec.ofNat 64 (8 * j)) →
         exec (.abortCompletion s.h.id a e l) s = .next (resolved s (found s) s.h.pc)) ∧
       (a ∉ (s.dataReads i).1 → a ≠ s.h.pc → (∀ j, j < byteLength i / 8 → a ≠ s.h.pc + 4 + BitVec.ofNat 64 (8 * j)) →
         exec (.abortCompletion s.h.id a e l) s = .next s)))) ∧
  (∀ (s : State) (c : Nat),
     let line := s.core.lineOf c
     let passed := s.mapCore (fun k => { k with held := k.held.set c line.head? })
     let inUse := fun j => ∃ v ∈ (s.hartOf (4 * s.core.id + j)).convoys, v.issued = true ∧ c ∈ v.clusters
     (s.core.held.getD c none = none → exec (.clusterRelease s.core.id c) s = .next passed) ∧
     (∀ j, s.core.held.getD c none = some j → line.contains j = false → ¬ inUse j →
       exec (.clusterRelease s.core.id c) s = .next passed) ∧
     (∀ j, s.core.held.getD c none = some j → line.contains j = true ∨ inUse j →
       exec (.clusterRelease s.core.id c) s = .next s))

/-- Pre-emption (R91, R286, R290 to R293): PREEMPT and TIMER set the event bit and are held while TE is 0; while it is 1, work that has not
issued is discarded and the issued convoys have 2,000 counts of TIME left, after which they are discarded, but where the pipeline had then made a
farm claim ahead of them, when nothing bounds them (R62); the claims of discarded heads stay the hart's (log 65); the trap is entered once nothing is left, an unsealed strip
rewound and uncounted, with EPC at the word to go on with. EPC is the PC of the hart's own state, which stands at its oldest
unfinished work while the pipeline goes on ahead of it (log 10). TIMER is raised when the quantum of the context has run out; where the
context's entry holds an
error, the quantum counts as 0 (log 60).
Where the rules leave a point open, it follows the model's reading in log 10, log 21, log 60, log 65, log 70 and log 71. -/
def Obligations.PreemptionEvents : Prop :=
  ∀ s : State, s.h.stopped = false → s.h.active = true →
    let began := fun (u : State) =>
      let t := u.resolveWait
      if u.h.trap.te = true ∧ u.h.taking = none then
        if t.h.trap.te = true then t.stopPushing.mapH (fun h => { h with taking := some s.dev.time }) else t
      else u
    let quantum := field (s.contextField s.h.ctxid.toNat 2) 0 32
    exec (.preempt s.h.id) s = .next (began (s.mapH (fun h => { h with preempt := true, event := true }))) ∧
    (quantum ≠ 0 → s.h.slice + 1000 * quantum ≤ s.dev.time →
      exec (.timer s.h.id) s = .next (began (s.mapH (fun h => { h with timer := true, event := true, slice := s.dev.time })))) ∧
    (quantum = 0 ∨ s.dev.time < s.h.slice + 1000 * quantum → exec (.timer s.h.id) s = .next s) ∧
    (∀ h : Hart,
      let kept := h.convoys.takeWhile (·.issued)
      h.stopPushing.convoys = kept ∧ h.stopPushing.squeue = [] ∧ h.stopPushing.holding = h.claimAhead ∧
      h.stopPushing.ahead = (if kept = h.convoys ∧ h.squeue = [] then h.ahead.takeWhile (fun e => !e.pushes) else []) ∧
      (∀ k ∈ h.claims, k ∈ h.stopPushing.claims) ∧
      (∀ e g base n d, e ∈ h.ahead.drop h.stopPushing.ahead.length → e.kind = .head g (some (base, n)) (some d) →
        ({ ctxid := h.ctxid, desc := d, base := base, count := n } : KeptClaim) ∈ h.stopPushing.claims) ∧
      h.stopPushing.x = h.x ∧ h.stopPushing.pc = h.pc ∧ h.stopPushing.loops = h.loops ∧ h.stopPushing.front = none) ∧
    (∀ since, s.h.taking = some since →
      (since + 2000 ≤ s.dev.time → s.h.holding = false → exec (.preemptDeadline s.h.id) s = .next s.discardQueues) ∧
      (s.dev.time < since + 2000 ∨ s.h.holding = true → exec (.preemptDeadline s.h.id) s = .next s) ∧
      (s.h.trap.te = true → s.h.convoys = [] → s.h.squeue = [] → s.h.ahead = [] →
        let c := if s.h.preempt then Cause.preempt else Cause.timer
        ∃ t, exec (.preemptTrapEntry s.h.id) s = .next t ∧ t.h.pc = s.h.trap.tvec ∧ t.h.trap.ecause.toNat = c.code.toNat + 256 ∧
          t.h.trap.sup = true ∧ t.h.trap.te = false ∧ t.h.taking = none ∧ t.h.preempt = false ∧
          (s.h.preempt = true → t.h.timer = s.h.timer) ∧ t.mem = s.mem ∧
          (s.h.unsealed = false → t.h.trap.epc = s.h.pc ∧ t.h.x = s.h.x) ∧
          (∀ ck, s.h.unsealed = true → s.h.ckpt = some ck → t.h.trap.epc = ck.pc ∧ t.h.ssb = [])))

/-- Debuggers, snapshots, shootdowns, attestation (R247, R302, R303, R311, R329): STATUS.DBGA follows the context table, and is 0 where the entry
holds an error (log 60); a halted hart goes on; a snapshot latches at its stamp, is held in every die's slot until one is released; a
shootdown takes the operands of its
slot, and once no hart holds work that it covers performs what harts have had accepted in the context, leaves in the TLBs no entry that it covers
but what running streams have translated anew, by the tables of that moment, and clears GO; an attestation on die 0 alone gives a report: at
REPORT the bytes of Table 22.11 and STATUS 0, or STATUS 1 and no
report when an address is refused, an abort completion in the error log (R296), and on every other die STATUS 2; GO is cleared after it. A
Hearth acts on none of this before its firmware is accepted (log 41), nor on a slot that holds an error, which it logs (log 69). A hart holds work
that a shootdown covers while a store that it has not sent meets it, or while an issued convoy of the context that reads a table or device memory has
not retired (R247).
Where the rules leave a point open, it follows the model's reading in log 6, log 9, log 41, log 45, log 60, log 61 and log 69. -/
def Obligations.DebugAndMaintenanceEvents : Prop :=
  (∀ (s : State) (c : Nat),
    (s.hearthsUp = true → exec (.debuggerAttach c) s =
      .next ((s.dropRequest (.contexts c)).mapHarts (fun h => if h.active = true ∧ h.ctxid.toNat = c then
        { h with trap := { h.trap with dbga := (s.contextField c 2).getLsbD 38 } } else h))) ∧
    (s.hearthsUp = false → exec (.debuggerAttach c) s = .next s)) ∧
  (∀ (s : State) (id : Nat), exec (.debugResume id) s = .next (s.onHart id (fun h => { h with halted := false })) ∧
    exec (.debugResume s.h.id) s = .next (s.mapH (fun h => { h with halted := false }))) ∧
  (∀ s : State, s.mem.wf = true →
    (s.dev.snapshot = none → exec .snapshotLatch s = .next s) ∧
    (∀ t0, s.dev.snapshot = some t0 → s.dev.time < t0 → exec .snapshotLatch s = .next s) ∧
    (∀ t0, s.dev.snapshot = some t0 → t0 ≤ s.dev.time → ∃ t, exec .snapshotLatch s = .next t ∧ t.dev.snapshot = none ∧
      t.dev.snapHeld = true ∧ ∀ d, d < 6 → t.mem.dword (windowKey d 0x10088) = BitVec.ofNat 64 t0 ∧
        (t.mem.read (windowKey d 0x10087)).getLsbD 7 = true) ∧
    (s.hearthsUp = true → s.dev.snapHeld = true → (upTo 6).any s.released = true → ∃ t, exec .snapshotRelease s = .next t ∧ t.dev.snapHeld = false ∧
      ∀ d, d < 6 → t.mem.read (windowKey d 0x10087) = 0 ∧ HearthRequest.snapshot d ∉ t.dev.requests) ∧
    (s.hearthsUp = false ∨ s.dev.snapHeld = false ∨ (upTo 6).any s.released = false → exec .snapshotRelease s = .next s)) ∧
  (∀ (s : State) (d : Nat),
    let w := fun n => s.mem.dword (windowKey d (0x10000 + 8 * n))
    let bad := HearthRequest.shootdown d ∈ s.dev.requests ∧ s.poisoned (windowKey d 0x10000) 24 = true
    (s.hearthsUp = true → bad → exec (.shootdownRequest d) s =
      .next ((s.logError d .abort (windowKey d 0x10000) d 0).dropRequest (.shootdown d))) ∧
    (s.hearthsUp = true → ¬ bad → s.goSet (.shootdown d) d 0x10000 = true → exec (.shootdownRequest d) s = .next ((s.dropRequest (.shootdown d)).mapDev (fun e =>
      { e with shootdowns := e.shootdowns ++ [{ die := d, ctxid := (w 2).setWidth 16, va := (w 0).toNat, length := (w 1).toNat }] }))) ∧
    (s.hearthsUp = true → ¬ bad → s.goSet (.shootdown d) d 0x10000 = false → exec (.shootdownRequest d) s = .next (s.dropRequest (.shootdown d))) ∧
    (s.hearthsUp = false → exec (.shootdownRequest d) s = .next s) ∧
    (s.dev.shootdowns.find? (·.die == d) = none → exec (.shootdownComplete d) s = .next s) ∧
    (∀ x, s.dev.shootdowns.find? (·.die == d) = some x → s.allHarts.any (s.heldUp x) = true →
      exec (.shootdownComplete d) s = .next s) ∧
    (∀ (x : Shootdown) (h : Hart), h.ctxid = x.ctxid →
      (∃ cv ∈ h.convoys, cv.issued = true ∧ ∃ i ∈ cv.words, readsTable i = true ∨ (h.space = 0 ∧ memForm i ≠ none)) → s.heldUp x h = true) ∧
    (∀ x, s.mem.wf = true → s.dev.shootdowns.find? (·.die == d) = some x → s.allHarts.any (s.heldUp x) = false →
      ∃ t, exec (.shootdownComplete d) s = .next t ∧
      (∀ w ∈ t.dev.writes, w.done = false → w.ctxid = x.ctxid → w.agent.hart = none) ∧
      (∀ e : TlbEntry, (∃ k ∈ t.core :: t.cores, e ∈ k.tlb) ∨ (∃ c, (c, e) ∈ t.dev.tlb2) → x.covers e = true →
        ∃ (a : Word) (level : Nat), (s.drainWhere (Write.ofContext x.ctxid)).leafOf x.ctxid.toNat a = .ok (e.leaf, level) ∧
          e.va ≤ a.toNat ∧ a.toNat < e.va + e.size) ∧
      (t.mem.read (windowKey d 0x10017)).getLsbD 7 = false ∧ ∀ y ∈ t.dev.shootdowns, y.die ≠ d)) ∧
  (∀ (s : State) (d : Nat),
    let ended := fun (u : State) (status : Nat) => exec (.attestationRequest d) s =
      .next (((u.hearthWrite d 0x10058 1 status).dropRequest (.attestation d)).clearGo d 0x10040)
    let w := fun n => s.mem.dword (windowKey 0 (0x10040 + 8 * n))
    let c := field (w 2) 0 16
    let aligned := (w 0).toNat % 64 = 0 ∧ (w 1).toNat % 64 = 0
    let fault := (s.hearthFault 0 c .load (w 0) 64).orElse (fun _ => s.hearthFault 0 c .store (w 1) 8192)
    let u := s.hearthAsked 0 c (w 0) 64
    let denied := fun (t : State) (x : Denial × Word) => ended (if x.1 = .abort then t.logDenied 0 c .abort 0 x else t) 1
    let bad := HearthRequest.attestation d ∈ s.dev.requests ∧ s.poisoned (windowKey d 0x10040) 24 = true
    (s.hearthsUp = false → exec (.attestationRequest d) s = .next s) ∧
    (s.hearthsUp = true → bad → exec (.attestationRequest d) s =
      .next ((s.logError d .abort (windowKey d 0x10040) d 0).dropRequest (.attestation d))) ∧
    (s.hearthsUp = true → ¬ bad → s.goSet (.attestation d) d 0x10040 = false →
      exec (.attestationRequest d) s = .next (s.dropRequest (.attestation d))) ∧
    (s.hearthsUp = true → ¬ bad → s.goSet (.attestation d) d 0x10040 = true →
      (d ≠ 0 → ended s 2) ∧
      (d = 0 → ¬ aligned → ended s 1) ∧
      (∀ x, d = 0 → aligned → fault = some x → denied s x) ∧
      (∀ x, d = 0 → aligned → fault = none → u.hearthRead 0 c (w 0) 64 = .error x → denied u x) ∧
      (∀ v, d = 0 → aligned → fault = none → u.hearthRead 0 c (w 0) 64 = .ok v →
        let body : List Byte := (List.range 64).map (fun i => BitVec.ofNat 8 (v / 2 ^ (8 * i)))
          ++ (List.range 64).map Config.firmwareDigest ++ (List.range 64).map Config.kernelDigest
          ++ (List.range 6).flatMap (fun e => (List.range 8).map (fun i => BitVec.ofNat 8 ((s.dev.harvest.getD e 0).toNat / 2 ^ (8 * i))))
          ++ (List.range 2592).map Config.publicKey
        let report := body ++ (List.range 4627).map (Config.signatureByte body) ++ List.replicate 733 0
        body.length = 2832 ∧ report.length = 8192 ∧
        (∀ t, u.hearthStore 0 c (w 1) 8192 (packList 8 (report.map (·.toNat))) = .ok t → ended t 0) ∧
        (∀ x, u.hearthStore 0 c (w 1) 8192 (packList 8 (report.map (·.toNat))) = .error x → denied u x)) ∧
      (s.mem.wf = true → ∃ t, exec (.attestationRequest d) s = .next t ∧
        HearthRequest.attestation d ∉ t.dev.requests ∧ (t.mem.read (windowKey d 0x10057)).getLsbD 7 = false ∧
        (d ≠ 0 → t.mem.read (windowKey d 0x10058) = 2))))

/-- Queues (R313 to R315, R322, R334): each write to a descriptor is acted on once, oldest first, by the value that it wrote: EN starts a
stopped queue, CMD 1 drains and CMD 2 kills one whose STATE is not 0, any other command is cleared where it has no effect, and
STATE stays what the Hearth keeps; a write to a notify line of a queue that runs asks for a scan of what stands posted at that moment, the
scan starts no packet beyond that, and an event that nothing calls for changes nothing. A scan takes turns until none is left: the queue whose scan
ends, else the one of highest PRIO that can start a packet, by ascending number behind the last of that PRIO. A turn takes the packet at READ: V
of its slot becomes 0, READ one more, and the packet starts, as one of the span of the last barrier packet (R315); a barrier packet opens a span, or is
cancelled and drains the queue where one of its span has failed; a slot that fails its check stops the queue, and one with V 0 ends the scan. A
descriptor that holds an error asks for nothing, and the log says so (log 69).
Where the rules leave a point open, it follows the model's reading in log 18, log 41 and log 69. -/
def Obligations.QueueEvents : Prop :=
  ∀ (s : State) (d q : Nat),
    let st := s.queueState d q
    let seen := s.descSeen d q
    (∀ u, s.scanTo d q = some u → exec (.queueNotify d q) s = .next (s.scan d scanFuel) ∧ HearthRequest.notify d q u ∈ s.dev.requests) ∧
    (s.scanTo d q = none → exec (.queueNotify d q) s = .next s) ∧
    (s.canStart d q = true → ∃ u, s.scanTo d q = some u ∧ s.descRead d q ≠ u) ∧
    (s.hearthsUp = false → s.scanTo d q = none ∧ s.descWrite d q = none) ∧
    (d < 6 → q < 64 → ∀ ag v,
      let t := s.perform ag (cellsOf (windowKey d (0x40000 + 64 * q)) 8 v)
      (s.heedsNotify d q = true → HearthRequest.notify d q (({ s with mem := t.mem } : State).postedTo d q) ∈ t.dev.requests) ∧
      (s.heedsNotify d q = false → t.dev.requests = s.dev.requests)) ∧
    (∀ v, s.descWrite d q = some v →
      let en := v.getLsbD 8
      let cmd := v.toNat / 2 ^ 12 % 4
      HearthRequest.descriptor d q v ∈ s.dev.requests ∧ seen.dev.requests.length + 1 = s.dev.requests.length ∧
      (s.descAborts d q = true → exec (.queueStart d q) s = .next s ∧ exec (.queueDrain d q) s = .next s ∧ exec (.queueKill d q) s = .next s ∧
        exec (.queueCmdClear d q) s = .next ((s.logError d .abort (windowKey d (0x30000 + 64 * q)) d 0).descSeen d q)) ∧
      (s.descAborts d q = false →
      (st = 0 → en = true → exec (.queueStart d q) s = .next ((seen.setDesc d q 1 0).setQueue
        { die := d, queue := q, state := 1, span := [], failed := false, stop := false })) ∧
      (st ≠ 0 → cmd = 1 → exec (.queueDrain d q) s = .next (seen.drainQueue d q (if st = 3 then 3 else 2) 1)) ∧
      (st ≠ 0 → cmd = 2 → exec (.queueKill d q) s = .next (seen.drainQueue d q 3 2)) ∧
      (¬ (st = 0 ∧ en = true) → ¬ (st ≠ 0 ∧ (cmd = 1 ∨ cmd = 2)) →
        exec (.queueCmdClear d q) s = .next (seen.setDesc d q st (if st = 0 ∨ cmd = 3 then 0 else s.descCmd d q))))) ∧
    (s.descWrite d q = none → exec (.queueStart d q) s = .next s ∧ exec (.queueDrain d q) s = .next s ∧ exec (.queueKill d q) s = .next s ∧
      exec (.queueCmdClear d q) s = .next s) ∧
    (s.scanning d = [] → s.scan d scanFuel = s) ∧
    (∀ n f, s.nextQueue d = some n → s.scan d (f + 1) = (s.scanTurn d n).scan d f ∧ n ∈ s.scanning d ∧ (s.canStart d n = true →
      ∀ m ∈ s.scanning d, s.canStart d m = true ∧ s.descPrio d m ≤ s.descPrio d n ∧
        (let last := s.dev.turns.getD (8 * d + s.descPrio d n) 63
         s.descPrio d m = s.descPrio d n → (last < m → last < n ∧ n ≤ m) ∧ (m ≤ last → last < n ∨ n ≤ m)))) ∧
    (∀ r, s.queue d q = some r → r.state = 1 → r.stop = false →
      let c := s.descCtxid d q
      let a := s.slotAt d q
      let u := (s.takeSlot d q).1
      let p := (s.takeSlot d q).2
      let w := u.mapDev (fun e => { e with turns := e.turns.set (8 * d + s.descPrio d q) q })
      (s.descAborts d q = true → s.scanTurn d q = (s.logError d .abort (windowKey d (0x30000 + 64 * q)) d 0).endScan d q) ∧
      (s.descAborts d q = false → s.slotOk d q = false → s.scanTurn d q = (s.stopQueue d q).endScan d q) ∧
      (s.descAborts d q = false → s.slotOk d q = true → (s.slotHeader d q).getLsbD 0 = false →
        s.scanTurn d q = (s.hearthAsked d c a 8).endScan d q) ∧
      (s.canStart d q = true →
        p.die = d ∧ p.queue = q ∧ p.slot = s.slotIndex d q ∧ p.id = s.dev.nextPacket ∧ p.ctxid = BitVec.ofNat 16 c ∧
        u.dev.nextPacket = s.dev.nextPacket + 1 ∧
        (∀ i v, i < 8 → s.hearthRead d c (a + BitVec.ofNat 64 (8 * i)) 8 = .ok v → p.dword i = BitVec.ofNat 64 v) ∧
        (s.mem.wf = true → u.descRead d q = (s.descRead d q + 1) % 2 ^ 32 ∧
          ∀ k, s.hearthPlace d c .store a = .ok k → k.repl = false → (∀ j, j < 4 → k.key ≠ windowKey d (0x30000 + 64 * q + 24) + j) →
            (u.mem.read k.key).toNat = (p.dword 0).toNat % 256 / 2 * 2) ∧
        (p.bar = false → s.scanTurn d q = (w.setQueue { r with span := r.span ++ [p.id] }).startPacket p) ∧
        (p.bar = true → r.failed = false → s.scanTurn d q = (w.setQueue { r with span := [p.id], failed := false }).startPacket p) ∧
        (p.bar = true → r.failed = true → s.scanTurn d q = ((w.writeRecord p 3 0 0).drainQueue d q 2 (s.descCmd d q)).endScan d q))) ∧
    (∀ p : Packet, p.type = 2 ∨ p.type = 4 → s.packetFault p = 0 → ∃ cs, s.startPacket p =
      s.mapDev (fun e => { e with channels := cs, packets := e.packets ++ [p] })) ∧
    (∀ n, n < 4 → s.mem.wf = true → s.descAborts d q = false → (s.setDesc d q n 0).descCmd d q = 0 ∧ (s.setDesc d q n 0).descEn d q = s.descEn d q ∧
      (s.setDesc d q n 0).descBase d q = s.descBase d q)

/-- Packets and groups (R315 to R322, R324): a WAIT completes when its condition holds, and one that meets an error goes on waiting (log
18), a COPY when its bytes have moved, one to a peer over a
live port, a LAUNCH when every group has retired; one that is dealt a core of a lost die is killed; the lowest group that waits for a core
dispatches once the core has room, the context's entry asked of die 0 (log 45), its images installed first, and its task is killed where the context's entry holds an error (log 60); a
dispatched hart holds
what R320 gives it; a hart that has reached the end becomes inactive and keeps its clusters until its group retires; a group retires once
its harts have ended and its streams too, which frees its harts, their panes and their clusters; a killed task ends with its record, once
no convoy of it is left.
Where the rules leave a point open, it follows the model's reading in log 18, log 19, log 23, log 41, log 45, log 60 and log 61. -/
def Obligations.PacketEvents : Prop :=
  (∀ (s : State) (p : Packet),
    (∀ k, s.packet p.id 4 = some p → s.waitPlace p.die p.ctxid.toNat (p.dword 2) = some k →
      let t := s.hearthAsked p.die p.ctxid.toNat (p.dword 2) 8
      (s.aborts k 8 = true → exec (.waitConditionMet p.id) s =
        .next (t.logDenied p.die p.ctxid.toNat .abort p.queue (.abort, p.dword 2))) ∧
      (s.aborts k 8 = false → waitHolds (field (p.dword 0) 16 3) (s.mem.dword k) (p.dword 3) = true →
        exec (.waitConditionMet p.id) s = .next (t.finishAndScan p 1 0 0)) ∧
      (s.aborts k 8 = false → waitHolds (field (p.dword 0) 16 3) (s.mem.dword k) (p.dword 3) = false →
        exec (.waitConditionMet p.id) s = .next t)) ∧
    (s.packet p.id 2 = some p →
      (p.peer = 0 ∨ s.dev.ports ≠ 0 → exec (.copyComplete p.id) s = .next ((s.copyBytes p (fun _ => true)).finishAndScan p 1 0 0)) ∧
      (p.peer ≠ 0 → s.dev.ports = 0 → exec (.copyComplete p.id) s = .next s)) ∧
    (p.type = 1 → s.packetFault p = 0 →
      let r := s.packetAsked p
      let l := r.dealList p.dieMask ((p.dword 0).getLsbD 16)
      let dealt := (List.range (p.dword 3).toNat).filterMap (fun g => (dealCore l g).map (fun c => (g, c)))
      let started := r.mapDev (fun d => { d with packets := d.packets ++
        [{ p with waiting := dealt, kobj := (r.kobj p.die p.ctxid.toNat (p.dword 2)).getD noKobj }] })
      (∃ cs, r = s.mapDev (fun d => { d with channels := cs })) ∧
      ((∀ w ∈ dealt, r.dev.lost.getLsbD (w.2 / 512) = false) → s.startPacket p = started) ∧
      ((∃ w ∈ dealt, r.dev.lost.getLsbD (w.2 / 512) = true) → s.startPacket p = started.killTask p.id 0x0B 0)) ∧
    (s.packet p.id 1 = some p →
      (p.waiting = [] → p.live = [] → exec (.packetComplete p.id) s = .next (s.finishAndScan p 1 0 0)) ∧
      (p.waiting ≠ [] ∨ p.live ≠ [] → exec (.packetComplete p.id) s = .next s) ∧
      (∀ g c, p.waiting.find? (fun w => w.2 == c) = some (g, c) →
        let lost := s.dev.lost.getLsbD (c / 512)
        (lost = true → exec (.groupDispatch ⟨p.id, c⟩) s = .next (s.killTask p.id 0x0B 0)) ∧
        (lost = false → (s.freeHarts c).length < p.kobj.harts → exec (.groupDispatch ⟨p.id, c⟩) s = .next s) ∧
        let a := s.asked (hearthOf p.die) p.die [0]
        (lost = false → p.kobj.harts ≤ (s.freeHarts c).length → s.contextAborts p.ctxid.toNat = true →
          exec (.groupDispatch ⟨p.id, c⟩) s = .next ((a.logDenied p.die p.ctxid.toNat .abort p.queue
            (.abort, BitVec.ofNat 64 (windowKey 0 (0x20000 + 32 * p.ctxid.toNat)))).killTask p.id 0x0B (BitVec.ofNat 16 g))) ∧
        (lost = false → p.kobj.harts ≤ (s.freeHarts c).length → s.contextAborts p.ctxid.toNat = false →
          (c ∈ p.imaged → exec (.groupDispatch ⟨p.id, c⟩) s = .next (a.dispatch p g c)) ∧
          (∀ u, c ∉ p.imaged → a.installImages p c = .ok u → exec (.groupDispatch ⟨p.id, c⟩) s = .next (u.dispatch p g c)) ∧
          (∀ e, c ∉ p.imaged → a.installImages p c = .error e → exec (.groupDispatch ⟨p.id, c⟩) s =
            .next ((a.logError (if e.1 = .abort then s.finder (BitVec.ofNat 16 p.ctxid.toNat) p.die e.2 else p.die) .image e.2.toNat p.queue
              p.ctxid.toNat).killTask p.id (denialCode e.1) (BitVec.ofNat 16 g))))) ∧
      (∀ c, p.waiting.find? (fun w => w.2 == c) = none → exec (.groupDispatch ⟨p.id, c⟩) s = .next s) ∧
      (∀ g, g ∈ p.live → (∀ h ∈ s.members p.id (some (BitVec.ofNat 16 g)), h.active = false ∧ h.streamsEnded = true) →
        exec (.groupRetire p.id g) s = .next ((s.freeGroup p.id (some (BitVec.ofNat 16 g))).mapPacket p.id (fun p =>
          { p with live := p.live.filter (· != g) })))) ∧
    (s.dev.packets.find? (fun o => o.id == p.id && o.phase == .killing) = some p → (∃ h ∈ s.members p.id none, h.convoys ≠ []) →
      exec (.taskQuiescence p.id) s = .next s) ∧
    (s.dev.packets.find? (fun o => o.id == p.id && o.phase == .killing) = some p → (∀ h ∈ s.members p.id none, h.convoys = []) →
      exec (.taskQuiescence p.id) s = .next ((if p.type = 2 then s.copyBytes p (Config.copyMoved s.dev.steps) else s.drain.freeGroup p.id none).finishAndScan p 2 p.cause p.group)) ∧
    ∀ g k id, k < p.kobj.harts →
      let h := s.dispatched p g k id
      h.active = true ∧ h.id = id ∧ h.task = p.id ∧ h.groupid = BitVec.ofNat 16 g ∧ h.pc = p.kobj.entry ∧ h.rx 1 = exitPc ∧
        h.rx 2 = p.dword 4 + p.dword 5 * BitVec.ofNat 64 (p.kobj.harts * g + k + 1) ∧ h.rx 10 = p.dword 6 ∧ h.rx 11 = p.dword 7 ∧
        h.trap.te = true ∧ h.trap.sup = p.sup ∧ h.trap.tvec = s.contextDword p.ctxid.toNat 1 ∧ h.ctxid = p.ctxid ∧
        h.vstate = 1 ∧ h.grant = 0 ∧ h.loops = clearLoops ∧ h.shaped = true) ∧
  (∀ (s : State) (id : Nat),
    let t := s.freeHart id
    t.hartOf id = resetHart id ∧ (∀ c, c < 8 → id % 4 ∉ (t.coreOf (id / 4)).lineOf c) ∧
      ∀ p ∈ (t.coreOf (id / 4)).panes, p.owner ≠ some id) ∧
  (∀ s : State, s.h.active = true → s.h.stopped = false → s.h.pc = exitPc → s.h.convoys = [] → s.h.squeue = [] → s.h.ahead = [] →
    ∃ t, exec (.hartExit s.h.id) s = .next t ∧ t.h.active = false ∧ t.h.task = s.h.task ∧ t.h.grant = s.h.grant ∧ t.h.vl = s.h.vl ∧
      t.core.line = s.core.line ∧ t.h.loops.lact = 0 ∧ t.h.loops.opn = false ∧ t.h.wait = .none ∧
      (s.h.loops.opn = true ∨ s.h.ssb = [] → t.h.ssb = []) ∧ t.h.closed = [] ∧ t.h.x = s.h.x ∧ t.mem = s.mem)

/-- The fabric and the host (R237, R248, R323 to R325, R328): a request of the expected number and version is performed once, and every other
dropped; an acknowledged request is forgotten; a dead link advances RVER, every request goes again under it, and the next tables lead
over a live link to a neighbour, else by the lowest die between; an external message writes memory at its home, but for the parts of a
window that no mapping gives W, or is answered with the bytes there (where they hold an error, with none, and the log says so), or stays in
flight until it is delivered, on an ROD flow in order,
and stops where no device has memory; a failed port moves its flows; the stages of bring-up come in order, past the second only with
firmware that verifies, and with the fourth every port comes up; the thermal limit changes clocks alone; an overtemperature kills what runs
on its die.
Where the rules leave a point open, it follows the model's reading in log 6, log 20, log 41, log 44, log 45. -/
def Obligations.FabricEvents : Prop :=
  (∀ (s : State) (a b n v i : Nat) (w : Write),
    let seq := BitVec.ofNat 16 n
    let due := (s.dev.channel a b).expect
    (BitVec.ofNat 8 v ≠ s.dev.rver ∨ seq ≠ due → exec (.fabricRequestArrival a b n v) s = .next s) ∧
    (BitVec.ofNat 8 v = s.dev.rver → seq = due → s.dev.requestAt a b seq false = some i → s.dev.writes[i]? = some w →
      (w.mayPass s.forwarding (s.dev.writes.take i) = false → exec (.fabricRequestArrival a b n v) s = .next s) ∧
      (w.mayPass s.forwarding (s.dev.writes.take i) = true → ∃ t, exec (.fabricRequestArrival a b n v) s = .next t ∧
        (t.dev.channel a b).expect = due + 1 ∧ t.dev.writes[i]? = some { w with done := true } ∧
        (s.dev.lost.getLsbD b = false →
          t.mem = s.mem.writes (w.cells.map (fun c => (c.1, (s.mem.read c.1 &&& ~~~ w.mask) ||| (c.2 &&& w.mask))))) ∧
        (s.dev.lost.getLsbD b = true → ∃ v : LogEvent, t.dev.errors = s.dev.errors ++ [v] ∧ v.kind = .abort ∧ v.die = w.source ∧
          v.ctxid = w.ctxid.toNat))) ∧
    (s.dev.requestAt a b seq true = some i → exec (.fabricAckArrival a b n) s =
      .next (s.mapDev (fun d => { d with writes := d.writes.take i ++ d.writes.drop (i + 1) }))) ∧
    (s.dev.requestAt a b seq true = none → exec (.fabricAckArrival a b n) s = .next s)) ∧
  (∀ (s : State) (a b : Nat),
    (¬ (a < b ∧ b < 6 ∧ linkAlive s.dev.live a b = true) → exec (.linkDeath a b) s = .next s) ∧
    (a < b → b < 6 → linkAlive s.dev.live a b = true → ∃ t, exec (.linkDeath a b) s = .next t ∧
      linkAlive t.dev.live a b = false ∧ t.dev.fails = s.dev.fails + 1 ∧ t.dev.rver = s.dev.rver + 1 ∧
      (∀ c e, c < e → e < 6 → (c, e) ≠ (a, b) → linkAlive t.dev.live c e = linkAlive s.dev.live c e) ∧
      (∀ c e, c < 6 → e < 6 → c ≠ e →
        let next := t.dev.routes.getD (6 * c + e) 0
        let between := fun n => n < 6 ∧ n ≠ c ∧ n ≠ e ∧ linkAlive t.dev.live c n = true ∧ linkAlive t.dev.live n e = true
        (linkAlive t.dev.live c e = true → next = e) ∧
        (∀ n, linkAlive t.dev.live c e = false → between n → between next ∧ next ≤ n)) ∧
      t.dev.writes.length = s.dev.writes.length ∧ ∀ w ∈ t.dev.writes, w.version = s.dev.rver + 1)) ∧
  (∀ (s : State) (d off n flow port : Nat) (rod : Bool) (bytes : List Byte),
    let cells := (cellsFrom (devKey d off) bytes).filter (fun c => !hearthOnly (c.1 % 2 ^ 37))
    let written := fun (u : State) => (u.beforeCells .outside cells).perform .outside cells
    (d < 6 → off + bytes.length ≤ 2 ^ 37 →
      (s.dev.ports ≠ 0 → s.dev.lost.getLsbD d = false → exec (.uetMessage (.write d off bytes)) s = .next (written s)) ∧
      (s.dev.ports = 0 ∨ s.dev.lost.getLsbD d = true → exec (.uetMessage (.write d off bytes)) s = .next s) ∧
      (s.dev.ports.getLsbD port = false → exec (.uetMessage (.send flow rod port d off bytes)) s = .next s) ∧
      (s.dev.ports.getLsbD port = true → exec (.uetMessage (.send flow rod port d off bytes)) s = .next (s.mapDev (fun e =>
        { e with flights := e.flights ++ [{ flow := flow, rod := rod, port := port, die := d, off := off, bytes := bytes }] }))) ∧
      (∀ i, s.dev.flights[i]? = some { flow := flow, rod := rod, port := port, die := d, off := off, bytes := bytes } →
        let first := rod = true → ∀ g ∈ s.dev.flights.take i, g.rod = true → g.flow ≠ flow
        (s.dev.ports.getLsbD port = true → first → s.dev.lost.getLsbD d = false → exec (.uetMessage (.deliver i)) s =
          .next (written (s.mapDev (fun e => { e with flights := e.flights.take i ++ e.flights.drop (i + 1) })))) ∧
        (s.dev.ports.getLsbD port = false ∨ ¬ first → exec (.uetMessage (.deliver i)) s = .next s))) ∧
    (d < 6 → off + n ≤ 2 ^ 37 →
      (s.dev.ports ≠ 0 → s.dev.lost.getLsbD d = false → s.poisoned (devKey d off) n = false → exec (.uetMessage (.read d off n)) s =
        .next (s.mapDev (fun e => { e with
          replies := e.replies ++ [(e.steps, (List.range n).map (fun i => s.mem.read (devKey d off + i)))] }))) ∧
      (s.dev.ports ≠ 0 → s.dev.lost.getLsbD d = false → s.poisoned (devKey d off) n = true → exec (.uetMessage (.read d off n)) s =
        .next (s.logError d .abort (devKey d off) d 0)) ∧
      (s.dev.ports = 0 ∨ s.dev.lost.getLsbD d = true → exec (.uetMessage (.read d off n)) s = .next s)) ∧
    (6 ≤ d ∨ 2 ^ 37 < off + bytes.length → exec (.uetMessage (.write d off bytes)) s = .fault (.noSuchLocation d off) ∧
      exec (.uetMessage (.send flow rod port d off bytes)) s = .fault (.noSuchLocation d off)) ∧
    (6 ≤ d ∨ 2 ^ 37 < off + n → exec (.uetMessage (.read d off n)) s = .fault (.noSuchLocation d off))) ∧
  (∀ (s : State) (p : Nat),
    let left := s.dev.ports &&& ~~~ (BitVec.ofNat 12 (2 ^ p))
    (∀ q, s.dev.ports.getLsbD p = true → q < 12 → left.getLsbD q = true → (∀ o, o < q → left.getLsbD o = false) →
      exec (.portFailure p) s = .next (s.mapDev (fun d =>
        { d with ports := left, flights := d.flights.map (fun f => if f.port = p then { f with port := q } else f) })).switch) ∧
    (s.dev.ports.getLsbD p = true → left = 0 → exec (.portFailure p) s = .next (s.mapDev (fun d => { d with ports := left })).switch) ∧
    (s.dev.ports.getLsbD p = false → exec (.portFailure p) s = .next s)) ∧
  (∀ (s : State) (n : Nat),
    (n = s.dev.bringUp + 1 → n ≤ 5 → (n = 2 → ∀ d, d < 6 → Config.firmwareVerifies d = true) →
      ∃ t, exec (.bringUp n) s = .next t ∧ t.dev.bringUp = n ∧ t.h.x = s.h.x ∧ (n ≠ 3 → t.mem = s.mem) ∧
        t.dev.ports = (if n = 4 then 0xFFF else s.dev.ports)) ∧
    (n ≠ s.dev.bringUp + 1 ∨ 5 < n → exec (.bringUp n) s = .next s) ∧
    (n = 2 → (∃ d, d < 6 ∧ Config.firmwareVerifies d = false) → exec (.bringUp n) s = .next s) ∧
    exec .thermalLimit s = .next (s.mapDev (fun d => { d with throttled := true })) ∧
    (n < 6 → exec (.overtempKill n) s = .next ((s.killOn n 0).logError n .temperature n n 0)) ∧
    (6 ≤ n → exec (.overtempKill n) s = .next s))
end

