-- ==== Sys2Proof/Laws/Memory.lean ====
section
/-!
SUPPORT. Sys2Proof/Laws/Memory.lean: the canonical form of memory, and what a read gives after a write.
-/
namespace Sys2Proof.Machine

/-- A form that holds above an address holds above every lower one. -/
theorem Memory.wfFrom_mono {lo lo' : Nat} (h : lo ≤ lo') {m : Memory} (hm : Memory.wfFrom lo' m = true) :
    Memory.wfFrom lo m = true := by
  cases m with
  | nil => rfl
  | cons c m => simp [Memory.wfFrom] at hm ⊢; exact ⟨⟨by omega, hm.1.2⟩, hm.2⟩

theorem Memory.wfFrom_cons {lo k : Nat} (b : Byte) {m : Memory} (hl : lo ≤ k) (hm : Memory.wfFrom (k + 1) m = true) :
    Memory.wfFrom lo (Memory.cons k b m) = true := by
  unfold Memory.cons
  split
  · exact Memory.wfFrom_mono (by omega) hm
  · next hb => simp [Memory.wfFrom, hl, hb, hm]

theorem Memory.wfFrom_write {lo : Nat} {m : Memory} (k : Nat) (b : Byte) (hl : lo ≤ k) (hm : Memory.wfFrom lo m = true) :
    Memory.wfFrom lo (m.write k b) = true := by
  induction m generalizing lo with
  | nil => exact Memory.wfFrom_cons b hl rfl
  | cons c m ih =>
    obtain ⟨a, d⟩ := c
    simp only [Memory.wfFrom, Bool.and_eq_true, decide_eq_true_eq, bne_iff_ne] at hm
    simp only [Memory.write]
    split
    · next e => subst e; exact Memory.wfFrom_cons b hl hm.2
    · split
      · next hlt =>
        refine Memory.wfFrom_cons b hl ?_
        simp only [Memory.wfFrom, Bool.and_eq_true, decide_eq_true_eq, bne_iff_ne]
        exact ⟨⟨by omega, hm.1.2⟩, hm.2⟩
      · simp only [Memory.wfFrom, Bool.and_eq_true, decide_eq_true_eq, bne_iff_ne]
        exact ⟨hm.1, ih (by omega) hm.2⟩

/-- A write keeps the canonical form. -/
theorem Memory.wf_write {m : Memory} (k : Nat) (b : Byte) (hm : m.wf = true) : (m.write k b).wf = true :=
  Memory.wfFrom_write k b (Nat.zero_le k) hm

/-- Writes keep the canonical form. -/
theorem Memory.wf_writes {m : Memory} (cs : List Host.Cell) (hm : m.wf = true) : (m.writes cs).wf = true := by
  unfold Memory.writes
  induction cs generalizing m with
  | nil => exact hm
  | cons c cs ih => exact ih (Memory.wf_write _ _ hm)

/-- Leaving entries out keeps the canonical form. -/
theorem Memory.wfFrom_filter {lo : Nat} {m : Memory} (p : Host.Cell → Bool) (hm : Memory.wfFrom lo m = true) :
    Memory.wfFrom lo (m.filter p) = true := by
  induction m generalizing lo with
  | nil => rfl
  | cons c m ih =>
    obtain ⟨a, d⟩ := c
    simp only [Memory.wfFrom, Bool.and_eq_true, decide_eq_true_eq, bne_iff_ne] at hm
    by_cases hp : p (a, d) = true
    · rw [List.filter_cons_of_pos hp]
      simp only [Memory.wfFrom, Bool.and_eq_true, decide_eq_true_eq, bne_iff_ne]
      exact ⟨hm.1, ih hm.2⟩
    · rw [List.filter_cons_of_neg hp]
      exact Memory.wfFrom_mono (by omega) (ih hm.2)

theorem Memory.wf_filter {m : Memory} (p : Host.Cell → Bool) (hm : m.wf = true) : Memory.wf (m.filter p) = true :=
  Memory.wfFrom_filter p hm

/-- Below every address of a canonical memory, a byte reads as blank. -/
theorem Memory.read_below {lo k : Nat} {m : Memory} (hm : Memory.wfFrom lo m = true) (hk : k < lo) :
    m.read k = Memory.blank k := by
  cases m with
  | nil => rfl
  | cons c m =>
    obtain ⟨a, d⟩ := c
    simp only [Memory.wfFrom, Bool.and_eq_true, decide_eq_true_eq] at hm
    simp only [Memory.read]
    rw [if_neg (by omega), if_pos (by omega)]

theorem Memory.read_cons_self {lo k : Nat} (b : Byte) {m : Memory} (hm : Memory.wfFrom lo m = true) (hk : k < lo) :
    (Memory.cons k b m).read k = b := by
  unfold Memory.cons
  split
  · next e => rw [Memory.read_below hm hk, e]
  · simp [Memory.read]

theorem Memory.read_cons_ne {lo k j : Nat} (b : Byte) {m : Memory} (hm : Memory.wfFrom lo m = true) (hk : k < lo) (hj : j ≠ k) :
    (Memory.cons k b m).read j = m.read j := by
  unfold Memory.cons
  split
  · rfl
  · simp only [Memory.read]
    rw [if_neg (fun e => hj e.symm)]
    split
    · next h => exact (Memory.read_below hm (by omega)).symm
    · rfl

theorem Memory.read_writeFrom_self {lo : Nat} {m : Memory} (k : Nat) (b : Byte) (hm : Memory.wfFrom lo m = true) :
    (m.write k b).read k = b := by
  induction m generalizing lo with
  | nil => exact Memory.read_cons_self (lo := k + 1) b rfl (by omega)
  | cons c m ih =>
    obtain ⟨a, d⟩ := c
    have hm' := hm
    simp only [Memory.wfFrom, Bool.and_eq_true, decide_eq_true_eq, bne_iff_ne] at hm
    simp only [Memory.write]
    split
    · next e => exact Memory.read_cons_self b hm.2 (by omega)
    · split
      · refine Memory.read_cons_self (lo := a) b ?_ (by omega)
        simp only [Memory.wfFrom, Bool.and_eq_true, decide_eq_true_eq, bne_iff_ne]
        exact ⟨⟨by omega, hm.1.2⟩, hm.2⟩
      · simp only [Memory.read]
        rw [if_neg ‹_›, if_neg ‹_›]
        exact ih hm.2

/-- A read gives the byte written last. -/
theorem Memory.read_write_self {m : Memory} (k : Nat) (b : Byte) (hm : m.wf = true) : (m.write k b).read k = b :=
  Memory.read_writeFrom_self k b hm

theorem Memory.read_writeFrom_ne {lo : Nat} {m : Memory} (k j : Nat) (b : Byte) (hm : Memory.wfFrom lo m = true) (hj : j ≠ k) :
    (m.write k b).read j = m.read j := by
  induction m generalizing lo with
  | nil => exact Memory.read_cons_ne (lo := k + 1) b rfl (by omega) hj
  | cons c m ih =>
    obtain ⟨a, d⟩ := c
    have hm' := hm
    simp only [Memory.wfFrom, Bool.and_eq_true, decide_eq_true_eq, bne_iff_ne] at hm
    simp only [Memory.write]
    split
    · next e =>
      subst e
      rw [Memory.read_cons_ne b hm.2 (by omega) hj]
      simp only [Memory.read]
      rw [if_neg (fun e => hj e.symm)]
      split
      · next h => exact Memory.read_below hm.2 (by omega)
      · rfl
    · split
      · refine Memory.read_cons_ne (lo := a) b ?_ (by omega) hj
        simp only [Memory.wfFrom, Bool.and_eq_true, decide_eq_true_eq, bne_iff_ne]
        exact ⟨⟨by omega, hm.1.2⟩, hm.2⟩
      · simp only [Memory.read]
        rw [ih hm.2]

/-- A write leaves every other byte. -/
theorem Memory.read_write_ne {m : Memory} (k j : Nat) (b : Byte) (hm : m.wf = true) (hj : j ≠ k) :
    (m.write k b).read j = m.read j :=
  Memory.read_writeFrom_ne k j b hm hj

/-- Writes leave every byte that none of them names. -/
theorem Memory.read_writes_ne {m : Memory} (cs : List Host.Cell) (j : Nat) (hm : m.wf = true)
    (hj : ∀ c ∈ cs, c.1 ≠ j) : (m.writes cs).read j = m.read j := by
  unfold Memory.writes
  induction cs generalizing m with
  | nil => rfl
  | cons c cs ih =>
    have h1 : c.1 ≠ j := hj c (by simp)
    exact (ih (Memory.wf_write _ _ hm) (fun d hd => hj d (by simp [hd]))).trans
      (Memory.read_write_ne _ _ _ hm (fun e => h1 e.symm))

/-- The keys of the cells of a value. -/
theorem mem_cellsOf {k n v : Nat} {c : Host.Cell} (h : c ∈ cellsOf k n v) : k ≤ c.1 ∧ c.1 < k + n := by
  induction n generalizing k v with
  | zero => simp [cellsOf] at h
  | succ n ih =>
    simp only [cellsOf, List.mem_cons] at h
    rcases h with h | h
    · subst h; exact ⟨Nat.le_refl _, by simp⟩
    · have := ih h; omega

end Sys2Proof.Machine
end

