-- ==== Sys2Proof/Laws/State.lean ====
section
/-!
SUPPORT. Sys2Proof/Laws/State.lean: what the updates of the state leave: one lemma per field per update.
-/
namespace Sys2Proof.Machine

@[simp] theorem State.mapH_h (s : State) (f : Hart → Hart) : (s.mapH f).h = f s.h := rfl
@[simp] theorem State.mapH_core (s : State) (f : Hart → Hart) : (s.mapH f).core = s.core := rfl
@[simp] theorem State.mapH_harts (s : State) (f : Hart → Hart) : (s.mapH f).harts = s.harts := rfl
@[simp] theorem State.mapH_cores (s : State) (f : Hart → Hart) : (s.mapH f).cores = s.cores := rfl
@[simp] theorem State.mapH_dev (s : State) (f : Hart → Hart) : (s.mapH f).dev = s.dev := rfl
@[simp] theorem State.mapH_mem (s : State) (f : Hart → Hart) : (s.mapH f).mem = s.mem := rfl
@[simp] theorem State.mapH_agenda (s : State) (f : Hart → Hart) : (s.mapH f).agenda = s.agenda := rfl
@[simp] theorem State.mapH_forwarding (s : State) (f : Hart → Hart) : (s.mapH f).forwarding = s.forwarding := rfl
@[simp] theorem State.mapH_stale (s : State) (f : Hart → Hart) : (s.mapH f).stale = s.stale := rfl
@[simp] theorem State.mapH_asyncFirst (s : State) (f : Hart → Hart) : (s.mapH f).asyncFirst = s.asyncFirst := rfl

@[simp] theorem State.mapCore_h (s : State) (f : Core → Core) : (s.mapCore f).h = s.h := rfl
@[simp] theorem State.mapCore_core (s : State) (f : Core → Core) : (s.mapCore f).core = f s.core := rfl
@[simp] theorem State.mapCore_harts (s : State) (f : Core → Core) : (s.mapCore f).harts = s.harts := rfl
@[simp] theorem State.mapCore_cores (s : State) (f : Core → Core) : (s.mapCore f).cores = s.cores := rfl
@[simp] theorem State.mapCore_dev (s : State) (f : Core → Core) : (s.mapCore f).dev = s.dev := rfl
@[simp] theorem State.mapCore_mem (s : State) (f : Core → Core) : (s.mapCore f).mem = s.mem := rfl
@[simp] theorem State.mapCore_agenda (s : State) (f : Core → Core) : (s.mapCore f).agenda = s.agenda := rfl
@[simp] theorem State.mapCore_forwarding (s : State) (f : Core → Core) : (s.mapCore f).forwarding = s.forwarding := rfl
@[simp] theorem State.mapCore_stale (s : State) (f : Core → Core) : (s.mapCore f).stale = s.stale := rfl
@[simp] theorem State.mapCore_asyncFirst (s : State) (f : Core → Core) : (s.mapCore f).asyncFirst = s.asyncFirst := rfl

@[simp] theorem State.mapDev_h (s : State) (f : Dev → Dev) : (s.mapDev f).h = s.h := rfl
@[simp] theorem State.mapDev_core (s : State) (f : Dev → Dev) : (s.mapDev f).core = s.core := rfl
@[simp] theorem State.mapDev_harts (s : State) (f : Dev → Dev) : (s.mapDev f).harts = s.harts := rfl
@[simp] theorem State.mapDev_cores (s : State) (f : Dev → Dev) : (s.mapDev f).cores = s.cores := rfl
@[simp] theorem State.mapDev_dev (s : State) (f : Dev → Dev) : (s.mapDev f).dev = f s.dev := rfl
@[simp] theorem State.mapDev_mem (s : State) (f : Dev → Dev) : (s.mapDev f).mem = s.mem := rfl
@[simp] theorem State.mapDev_agenda (s : State) (f : Dev → Dev) : (s.mapDev f).agenda = s.agenda := rfl
@[simp] theorem State.mapDev_forwarding (s : State) (f : Dev → Dev) : (s.mapDev f).forwarding = s.forwarding := rfl
@[simp] theorem State.mapDev_stale (s : State) (f : Dev → Dev) : (s.mapDev f).stale = s.stale := rfl
@[simp] theorem State.mapDev_asyncFirst (s : State) (f : Dev → Dev) : (s.mapDev f).asyncFirst = s.asyncFirst := rfl

/-- A change and one more are one change. -/
@[simp] theorem State.mapH_mapH (s : State) (f g : Hart → Hart) : (s.mapH f).mapH g = s.mapH (fun h => g (f h)) := rfl
@[simp] theorem State.mapCore_mapCore (s : State) (f g : Core → Core) :
    (s.mapCore f).mapCore g = s.mapCore (fun k => g (f k)) := rfl
@[simp] theorem State.mapDev_mapDev (s : State) (f g : Dev → Dev) : (s.mapDev f).mapDev g = s.mapDev (fun d => g (f d)) := rfl

/-! ### X registers (R71) -/

@[simp] theorem Hart.wx_id (h : Hart) (r : XReg) (v : Word) : (h.wx r v).id = h.id := by unfold Hart.wx; split <;> rfl
@[simp] theorem Hart.wx_active (h : Hart) (r : XReg) (v : Word) : (h.wx r v).active = h.active := by unfold Hart.wx; split <;> rfl
@[simp] theorem Hart.wx_halted (h : Hart) (r : XReg) (v : Word) : (h.wx r v).halted = h.halted := by unfold Hart.wx; split <;> rfl
@[simp] theorem Hart.wx_stopped (h : Hart) (r : XReg) (v : Word) : (h.wx r v).stopped = h.stopped := by unfold Hart.wx; split <;> rfl
@[simp] theorem Hart.wx_task (h : Hart) (r : XReg) (v : Word) : (h.wx r v).task = h.task := by unfold Hart.wx; split <;> rfl
@[simp] theorem Hart.wx_groupid (h : Hart) (r : XReg) (v : Word) : (h.wx r v).groupid = h.groupid := by unfold Hart.wx; split <;> rfl
@[simp] theorem Hart.wx_gprio (h : Hart) (r : XReg) (v : Word) : (h.wx r v).gprio = h.gprio := by unfold Hart.wx; split <;> rfl
@[simp] theorem Hart.wx_pc (h : Hart) (r : XReg) (v : Word) : (h.wx r v).pc = h.pc := by unfold Hart.wx; split <;> rfl
@[simp] theorem Hart.wx_v (h : Hart) (r : XReg) (v : Word) : (h.wx r v).v = h.v := by unfold Hart.wx; split <;> rfl
@[simp] theorem Hart.wx_k (h : Hart) (r : XReg) (v : Word) : (h.wx r v).k = h.k := by unfold Hart.wx; split <;> rfl
@[simp] theorem Hart.wx_f (h : Hart) (r : XReg) (v : Word) : (h.wx r v).f = h.f := by unfold Hart.wx; split <;> rfl
@[simp] theorem Hart.wx_hf (h : Hart) (r : XReg) (v : Word) : (h.wx r v).hf = h.hf := by unfold Hart.wx; split <;> rfl
@[simp] theorem Hart.wx_vl (h : Hart) (r : XReg) (v : Word) : (h.wx r v).vl = h.vl := by unfold Hart.wx; split <;> rfl
@[simp] theorem Hart.wx_vt (h : Hart) (r : XReg) (v : Word) : (h.wx r v).vt = h.vt := by unfold Hart.wx; split <;> rfl
@[simp] theorem Hart.wx_vmt (h : Hart) (r : XReg) (v : Word) : (h.wx r v).vmt = h.vmt := by unfold Hart.wx; split <;> rfl
@[simp] theorem Hart.wx_vlcap (h : Hart) (r : XReg) (v : Word) : (h.wx r v).vlcap = h.vlcap := by unfold Hart.wx; split <;> rfl
@[simp] theorem Hart.wx_grant (h : Hart) (r : XReg) (v : Word) : (h.wx r v).grant = h.grant := by unfold Hart.wx; split <;> rfl
@[simp] theorem Hart.wx_pmodeNow (h : Hart) (r : XReg) (v : Word) : (h.wx r v).pmodeNow = h.pmodeNow := by unfold Hart.wx; split <;> rfl
@[simp] theorem Hart.wx_xexit (h : Hart) (r : XReg) (v : Word) : (h.wx r v).xexit = h.xexit := by unfold Hart.wx; split <;> rfl
@[simp] theorem Hart.wx_xstrip (h : Hart) (r : XReg) (v : Word) : (h.wx r v).xstrip = h.xstrip := by unfold Hart.wx; split <;> rfl
@[simp] theorem Hart.wx_fflags (h : Hart) (r : XReg) (v : Word) : (h.wx r v).fflags = h.fflags := by unfold Hart.wx; split <;> rfl
@[simp] theorem Hart.wx_ctxid (h : Hart) (r : XReg) (v : Word) : (h.wx r v).ctxid = h.ctxid := by unfold Hart.wx; split <;> rfl
@[simp] theorem Hart.wx_loops (h : Hart) (r : XReg) (v : Word) : (h.wx r v).loops = h.loops := by unfold Hart.wx; split <;> rfl
@[simp] theorem Hart.wx_shadow (h : Hart) (r : XReg) (v : Word) : (h.wx r v).shadow = h.shadow := by unfold Hart.wx; split <;> rfl
@[simp] theorem Hart.wx_ssb (h : Hart) (r : XReg) (v : Word) : (h.wx r v).ssb = h.ssb := by unfold Hart.wx; split <;> rfl
@[simp] theorem Hart.wx_closed (h : Hart) (r : XReg) (v : Word) : (h.wx r v).closed = h.closed := by unfold Hart.wx; split <;> rfl
@[simp] theorem Hart.wx_ckpt (h : Hart) (r : XReg) (v : Word) : (h.wx r v).ckpt = h.ckpt := by unfold Hart.wx; split <;> rfl
@[simp] theorem Hart.wx_vdirty (h : Hart) (r : XReg) (v : Word) : (h.wx r v).vdirty = h.vdirty := by unfold Hart.wx; split <;> rfl
@[simp] theorem Hart.wx_kdirty (h : Hart) (r : XReg) (v : Word) : (h.wx r v).kdirty = h.kdirty := by unfold Hart.wx; split <;> rfl
@[simp] theorem Hart.wx_vstate (h : Hart) (r : XReg) (v : Word) : (h.wx r v).vstate = h.vstate := by unfold Hart.wx; split <;> rfl
@[simp] theorem Hart.wx_trap (h : Hart) (r : XReg) (v : Word) : (h.wx r v).trap = h.trap := by unfold Hart.wx; split <;> rfl
@[simp] theorem Hart.wx_dba (h : Hart) (r : XReg) (v : Word) : (h.wx r v).dba = h.dba := by unfold Hart.wx; split <;> rfl
@[simp] theorem Hart.wx_dbctl (h : Hart) (r : XReg) (v : Word) : (h.wx r v).dbctl = h.dbctl := by unfold Hart.wx; split <;> rfl
@[simp] theorem Hart.wx_pmode (h : Hart) (r : XReg) (v : Word) : (h.wx r v).pmode = h.pmode := by unfold Hart.wx; split <;> rfl
@[simp] theorem Hart.wx_retry (h : Hart) (r : XReg) (v : Word) : (h.wx r v).retry = h.retry := by unfold Hart.wx; split <;> rfl
@[simp] theorem Hart.wx_monitor (h : Hart) (r : XReg) (v : Word) : (h.wx r v).monitor = h.monitor := by unfold Hart.wx; split <;> rfl
@[simp] theorem Hart.wx_event (h : Hart) (r : XReg) (v : Word) : (h.wx r v).event = h.event := by unfold Hart.wx; split <;> rfl
@[simp] theorem Hart.wx_convoys (h : Hart) (r : XReg) (v : Word) : (h.wx r v).convoys = h.convoys := by unfold Hart.wx; split <;> rfl
@[simp] theorem Hart.wx_squeue (h : Hart) (r : XReg) (v : Word) : (h.wx r v).squeue = h.squeue := by unfold Hart.wx; split <;> rfl
@[simp] theorem Hart.wx_mq (h : Hart) (r : XReg) (v : Word) : (h.wx r v).mq = h.mq := by unfold Hart.wx; split <;> rfl
@[simp] theorem Hart.wx_streams (h : Hart) (r : XReg) (v : Word) : (h.wx r v).streams = h.streams := by unfold Hart.wx; split <;> rfl
@[simp] theorem Hart.wx_migr (h : Hart) (r : XReg) (v : Word) : (h.wx r v).migr = h.migr := by unfold Hart.wx; split <;> rfl
@[simp] theorem Hart.wx_heldFail (h : Hart) (r : XReg) (v : Word) : (h.wx r v).heldFail = h.heldFail := by unfold Hart.wx; split <;> rfl
@[simp] theorem Hart.wx_wait (h : Hart) (r : XReg) (v : Word) : (h.wx r v).wait = h.wait := by unfold Hart.wx; split <;> rfl
@[simp] theorem Hart.wx_preempt (h : Hart) (r : XReg) (v : Word) : (h.wx r v).preempt = h.preempt := by unfold Hart.wx; split <;> rfl
@[simp] theorem Hart.wx_timer (h : Hart) (r : XReg) (v : Word) : (h.wx r v).timer = h.timer := by unfold Hart.wx; split <;> rfl
@[simp] theorem Hart.wx_taking (h : Hart) (r : XReg) (v : Word) : (h.wx r v).taking = h.taking := by unfold Hart.wx; split <;> rfl
@[simp] theorem Hart.wx_holding (h : Hart) (r : XReg) (v : Word) : (h.wx r v).holding = h.holding := by unfold Hart.wx; split <;> rfl
@[simp] theorem Hart.wx_skipNow (h : Hart) (r : XReg) (v : Word) : (h.wx r v).skipNow = h.skipNow := by unfold Hart.wx; split <;> rfl
@[simp] theorem Hart.wx_slice (h : Hart) (r : XReg) (v : Word) : (h.wx r v).slice = h.slice := by unfold Hart.wx; split <;> rfl
@[simp] theorem Hart.wx_skipping (h : Hart) (r : XReg) (v : Word) : (h.wx r v).skipping = h.skipping := by unfold Hart.wx; split <;> rfl
@[simp] theorem Hart.wx_ahead (h : Hart) (r : XReg) (v : Word) : (h.wx r v).ahead = h.ahead := by unfold Hart.wx; split <;> rfl
@[simp] theorem Hart.wx_front (h : Hart) (r : XReg) (v : Word) : (h.wx r v).front = h.front := by unfold Hart.wx; split <;> rfl
@[simp] theorem Hart.wx_claims (h : Hart) (r : XReg) (v : Word) : (h.wx r v).claims = h.claims := by unfold Hart.wx; split <;> rfl
@[simp] theorem Hart.wx_behind (h : Hart) (r : XReg) (v : Word) : (h.wx r v).behind = h.behind := by unfold Hart.wx; split <;> rfl

@[simp] theorem Hart.wx_zero (h : Hart) (v : Word) : h.wx 0 v = h := rfl

@[simp] theorem Hart.rx_zero (h : Hart) : h.rx 0 = 0 := rfl

@[simp] theorem Hart.wx_x_length (h : Hart) (r : XReg) (v : Word) : (h.wx r v).x.length = h.x.length := by
  unfold Hart.wx; split <;> simp

/-- A register reads as what was written last. -/
theorem Hart.rx_wx_self (h : Hart) (r : XReg) (v : Word) (hr : r ≠ 0) (hl : h.x.length = 32) : (h.wx r v).rx r = v := by
  have : r.toNat < h.x.length := by rw [hl]; exact r.isLt
  unfold Hart.rx Hart.wx
  rw [if_neg hr, if_neg hr]
  simp [List.getD, this]

/-- A write leaves every other register. -/
theorem Hart.rx_wx_ne (h : Hart) (r q : XReg) (v : Word) (hq : q ≠ r) : (h.wx r v).rx q = h.rx q := by
  have hn : r.toNat ≠ q.toNat := fun e => hq (BitVec.eq_of_toNat_eq e.symm)
  by_cases hr : r = 0
  · subst hr; rfl
  · unfold Hart.rx Hart.wx
    rw [if_neg hr]
    simp [List.getD, List.getElem?_set_ne hn]

@[simp] theorem State.setX_h (s : State) (r : XReg) (v : Word) : (s.setX r v).h = s.h.wx r v := rfl
@[simp] theorem State.setX_core (s : State) (r : XReg) (v : Word) : (s.setX r v).core = s.core := rfl
@[simp] theorem State.setX_harts (s : State) (r : XReg) (v : Word) : (s.setX r v).harts = s.harts := rfl
@[simp] theorem State.setX_cores (s : State) (r : XReg) (v : Word) : (s.setX r v).cores = s.cores := rfl
@[simp] theorem State.setX_dev (s : State) (r : XReg) (v : Word) : (s.setX r v).dev = s.dev := rfl
@[simp] theorem State.setX_mem (s : State) (r : XReg) (v : Word) : (s.setX r v).mem = s.mem := rfl
@[simp] theorem State.setX_agenda (s : State) (r : XReg) (v : Word) : (s.setX r v).agenda = s.agenda := rfl
@[simp] theorem State.setX_forwarding (s : State) (r : XReg) (v : Word) : (s.setX r v).forwarding = s.forwarding := rfl
@[simp] theorem State.setX_stale (s : State) (r : XReg) (v : Word) : (s.setX r v).stale = s.stale := rfl
@[simp] theorem State.setX_asyncFirst (s : State) (r : XReg) (v : Word) : (s.setX r v).asyncFirst = s.asyncFirst := rfl

/-! ### Harts and cores kept apart -/

@[simp] theorem State.focus_self (s : State) : s.focus s.h.id = s := by simp [State.focus]

@[simp] theorem State.hartOf_self (s : State) : s.hartOf s.h.id = s.h := by simp [State.hartOf]

@[simp] theorem State.onHart_self (s : State) (f : Hart → Hart) : s.onHart s.h.id f = s.mapH f := by simp [State.onHart]

@[simp] theorem State.focus_mem (s : State) (id : Nat) : (s.focus id).mem = s.mem := by unfold State.focus; split <;> rfl
@[simp] theorem State.focus_dev (s : State) (id : Nat) : (s.focus id).dev = s.dev := by unfold State.focus; split <;> rfl
@[simp] theorem State.focus_agenda (s : State) (id : Nat) : (s.focus id).agenda = s.agenda := by
  unfold State.focus; split <;> rfl
@[simp] theorem State.focus_forwarding (s : State) (id : Nat) : (s.focus id).forwarding = s.forwarding := by
  unfold State.focus; split <;> rfl
@[simp] theorem State.focus_stale (s : State) (id : Nat) : (s.focus id).stale = s.stale := by unfold State.focus; split <;> rfl
@[simp] theorem State.focus_asyncFirst (s : State) (id : Nat) : (s.focus id).asyncFirst = s.asyncFirst := by
  unfold State.focus; split <;> rfl

/-- The hart brought to hand is the hart asked for. -/
theorem State.focus_h (s : State) (id : Nat) : (s.focus id).h = s.hartOf id := by
  unfold State.focus
  split
  · next e => simp [State.hartOf, e]
  · rfl

@[simp] theorem State.onHart_mem (s : State) (id : Nat) (f : Hart → Hart) : (s.onHart id f).mem = s.mem := by
  unfold State.onHart; split <;> rfl
@[simp] theorem State.onHart_dev (s : State) (id : Nat) (f : Hart → Hart) : (s.onHart id f).dev = s.dev := by
  unfold State.onHart; split <;> rfl
@[simp] theorem State.onCore_mem (s : State) (id : Nat) (f : Core → Core) : (s.onCore id f).mem = s.mem := by
  unfold State.onCore; split <;> rfl
@[simp] theorem State.onCore_dev (s : State) (id : Nat) (f : Core → Core) : (s.onCore id f).dev = s.dev := by
  unfold State.onCore; split <;> rfl
@[simp] theorem State.mapHarts_mem (s : State) (f : Hart → Hart) : (s.mapHarts f).mem = s.mem := rfl
@[simp] theorem State.mapHarts_dev (s : State) (f : Hart → Hart) : (s.mapHarts f).dev = s.dev := rfl

end Sys2Proof.Machine
end

