-- ==== Sys2Proof/Laws/Access.lean ====
section
/-!
SUPPORT. Sys2Proof/Laws/Access.lean: what accepting, performing and ordering writes leaves of the machine, and that each keeps
the canonical form of memory.
-/
namespace Sys2Proof.Machine

/-- Memory after a write has been performed (R278). -/
@[simp] theorem State.perform_mem (s : State) (ag : Agent) (cs : List Host.Cell) : (s.perform ag cs).mem = s.mem.writes cs := by
  unfold State.perform
  cases ag <;> rfl

/-- A write that is performed changes the event bit of the hart in hand at most. -/
theorem State.perform_h (s : State) (ag : Agent) (cs : List Host.Cell) :
    (s.perform ag cs).h = { s.h with event := (s.perform ag cs).h.event } := by
  have e : (s.perform ag cs).h = s.h.seeWrite ag cs := by
    unfold State.perform
    cases ag <;> rfl
  rw [e]
  unfold Hart.seeWrite
  split
  · rfl
  · split <;> rfl

@[simp] theorem State.perform_core (s : State) (ag : Agent) (cs : List Host.Cell) : (s.perform ag cs).core = s.core := by
  unfold State.perform
  cases ag <;> rfl

@[simp] theorem State.perform_cores (s : State) (ag : Agent) (cs : List Host.Cell) : (s.perform ag cs).cores = s.cores := by
  unfold State.perform
  cases ag <;> rfl

/-- A write that is performed changes of the device the requests of the Hearths and the errors that it overwrites at most. -/
theorem State.perform_dev (s : State) (ag : Agent) (cs : List Host.Cell) :
    (s.perform ag cs).dev = { s.dev with requests := (s.perform ag cs).dev.requests, poison := (s.perform ag cs).dev.poison } := rfl

theorem State.perform_wf (s : State) (ag : Agent) (cs : List Host.Cell) (h : s.mem.wf = true) : (s.perform ag cs).mem.wf = true := by
  rw [State.perform_mem]
  exact Memory.wf_writes cs h

/-- A write is accepted: the device alone changes, memory not yet (R269). -/
theorem State.acceptAt_eq (s : State) (ag : Agent) (st : Store) (shown : Bool) (g : Nat) (cs : List Host.Cell) :
    s.acceptAt ag st shown g cs = { s with dev := (s.acceptAt ag st shown g cs).dev } := rfl

/-- Writes accepted one after another change the device alone. -/
theorem State.foldl_dev {α : Type} (f : State → α → State) (hf : ∀ s a, f s a = { s with dev := (f s a).dev }) (l : List α) (s : State) :
    l.foldl f s = { s with dev := (l.foldl f s).dev } := by
  induction l generalizing s with
  | nil => rfl
  | cons a l ih =>
    rw [List.foldl_cons, ih, hf s a]

theorem State.accept_eq (s : State) (ag : Agent) (st : Store) (shown : Bool) :
    s.accept ag st shown = { s with dev := (s.accept ag st shown).dev } :=
  State.foldl_dev (fun t cs => t.acceptAt ag st shown s.dev.nextWrite cs) (fun t cs => t.acceptAt_eq ag st shown _ cs) st.copies s

section
variable (s : State) (ag : Agent) (st : Store) (shown : Bool)
@[simp] theorem State.accept_mem : (s.accept ag st shown).mem = s.mem := by rw [State.accept_eq]
@[simp] theorem State.accept_h : (s.accept ag st shown).h = s.h := by rw [State.accept_eq]
@[simp] theorem State.accept_core : (s.accept ag st shown).core = s.core := by rw [State.accept_eq]
@[simp] theorem State.accept_cores : (s.accept ag st shown).cores = s.cores := by rw [State.accept_eq]
@[simp] theorem State.accept_harts : (s.accept ag st shown).harts = s.harts := by rw [State.accept_eq]
end

/-- The stores of closed strips leave the hart and are accepted; nothing else of the machine changes (R157). -/
theorem State.flushClosed_eq (s : State) :
    s.flushClosed = { s with h := { s.h with closed := [] }, dev := s.flushClosed.dev } := by
  unfold State.flushClosed
  rw [State.foldl_dev (fun s' st => s'.accept (st.agent s'.h.id) st true) (fun t st => State.accept_eq t _ st true) s.h.closed s]
  rfl

@[simp] theorem State.flushClosed_mem (s : State) : s.flushClosed.mem = s.mem := by rw [State.flushClosed_eq]
@[simp] theorem State.flushClosed_h (s : State) : s.flushClosed.h = { s.h with closed := [] } := by rw [State.flushClosed_eq]

/-- Every buffered store is accepted; the buffers are empty, and nothing else of the machine changes (R157, R159). -/
theorem State.commitSsb_eq (s : State) :
    s.commitSsb = { s with h := { s.h with closed := [], ssb := [] }, dev := s.commitSsb.dev } := by
  have e : s.commitSsb = (s.flushClosed.h.ssb.foldl (fun s' st => s'.accept (st.agent s'.h.id) st true) s.flushClosed).mapH
      fun h => { h with ssb := [] } := rfl
  rw [e, State.foldl_dev (fun s' st => s'.accept (st.agent s'.h.id) st true) (fun t st => State.accept_eq t _ st true) _ s.flushClosed]
  rw [State.flushClosed_eq]
  rfl

@[simp] theorem State.commitSsb_mem (s : State) : s.commitSsb.mem = s.mem := by rw [State.commitSsb_eq]

/-- A seal changes the buffers and SEALED of the hart, and what is accepted (R159). -/
theorem State.seal_eq (s : State) :
    s.seal = { s with h := { s.h with closed := s.seal.h.closed, ssb := s.seal.h.ssb, loops := { s.h.loops with sealed := s.seal.h.loops.sealed } },
                      dev := s.seal.dev } := by
  unfold State.seal
  split
  · rw [State.commitSsb_eq]; rfl
  · rfl

@[simp] theorem State.seal_mem (s : State) : s.seal.mem = s.mem := by rw [State.seal_eq]
@[simp] theorem State.seal_trap (s : State) : s.seal.h.trap = s.h.trap := by rw [State.seal_eq]
@[simp] theorem State.seal_x (s : State) : s.seal.h.x = s.h.x := by rw [State.seal_eq]

/-- A store changes the strip store buffer or what is accepted, never memory at once (R157, R158, R269). -/
@[simp] theorem State.store_mem (s : State) (st : Store) : (s.store st).mem = s.mem := by
  unfold State.store
  split
  · split
    · rfl
    · rw [State.accept_mem, State.seal_mem]
  · rw [State.accept_mem, State.flushClosed_mem]

/-- Writes of a Hearth one after another keep the canonical form. -/
theorem State.foldl_wf {α : Type} (f : State → α → State) (hf : ∀ t a, t.mem.wf = true → (f t a).mem.wf = true) (l : List α) (s : State)
    (h : s.mem.wf = true) : (l.foldl f s).mem.wf = true := by
  induction l generalizing s with
  | nil => exact h
  | cons a l ih => exact ih _ (hf s a h)

theorem State.hearthWrite_wf (s : State) (die w n v : Nat) (h : s.mem.wf = true) : (s.hearthWrite die w n v).mem.wf = true :=
  State.perform_wf _ _ _ h

/-- What the error log records is written into a Hearth window, which keeps the canonical form (Table 22.1). -/
theorem State.logError_wf (s : State) (die : Nat) (kind : LogKind) (location requester ctxid : Nat) (h : s.mem.wf = true) :
    (s.logError die kind location requester ctxid).mem.wf = true := by
  unfold State.logError
  dsimp only
  rw [State.mapDev_mem]
  exact State.hearthWrite_wf _ _ _ _ _ (State.foldl_wf _ (fun t _ ht => State.hearthWrite_wf t _ _ _ _ ht) _ s h)

/-- A Hearth's change of a byte of its window keeps the canonical form (log 69). -/
theorem State.hearthChange_wf (s : State) (die w : Nat) (f : Nat → Nat) (h : s.mem.wf = true) : (s.hearthChange die w f).mem.wf = true := by
  unfold State.hearthChange
  split
  · exact State.hearthWrite_wf _ _ _ _ _ (State.logError_wf s _ _ _ _ _ h)
  · exact State.hearthWrite_wf s _ _ _ _ h

/-- A write that reaches its home keeps the canonical form. -/
theorem State.land_wf (s : State) (w : Write) (h : s.mem.wf = true) : (s.land w).mem.wf = true := by
  unfold State.land
  extract_lets u t
  have hu : u.mem.wf = true := by unfold u; split <;> exact h
  have ht : t.mem.wf = true := State.perform_wf u _ _ hu
  split
  · exact State.logError_wf u _ _ _ _ _ hu
  · split <;> exact ht

theorem State.lands_wf (k : List Write) (s : State) (h : s.mem.wf = true) : (k.foldl State.land s).mem.wf = true := by
  induction k generalizing s with
  | nil => exact h
  | cons w k ih => exact ih _ (s.land_wf w h)

/-- Performing an accepted write keeps the canonical form. -/
theorem State.performAt_wf (s : State) (i : Nat) (h : s.mem.wf = true) : (s.performAt i).mem.wf = true := by
  unfold State.performAt
  split
  · exact h
  · dsimp only
    split
    · exact h
    · exact State.land_wf _ _ h

theorem State.drainWhere_wf (s : State) (p : Write → Bool) (h : s.mem.wf = true) : (s.drainWhere p).mem.wf = true := by
  unfold State.drainWhere
  split
  · exact h
  · exact State.lands_wf _ _ h

theorem State.drain_wf (s : State) (h : s.mem.wf = true) : s.drain.mem.wf = true := s.drainWhere_wf _ h

/-- An arrival at a barrier that is taken back keeps the canonical form (R277). -/
theorem State.takeBack_wf (s : State) (hart : Hart) (key g : Nat) (h : s.mem.wf = true) : (s.takeBack hart key g).mem.wf = true := by
  have ht : (s.beforeHome (.scalar hart.id) key 8).mem.wf = true := by
    unfold State.beforeHome
    dsimp only
    unfold State.request
    split <;> exact State.drainWhere_wf _ _ h
  unfold State.takeBack
  dsimp only
  split
  · exact State.perform_wf _ _ _ ht
  · exact ht

/-- What an ordering point performs keeps the canonical form (R271). -/
theorem State.orderAt_wf (s : State) (scope : Scope) (scalar vector : Bool) (h : s.mem.wf = true) :
    (s.orderAt scope scalar vector).mem.wf = true :=
  State.drainWhere_wf _ _ (by rw [State.flushClosed_mem]; exact h)

theorem State.order_wf (s : State) (scalar vector : Bool) (h : s.mem.wf = true) : (s.order scalar vector).mem.wf = true :=
  s.orderAt_wf .sys scalar vector h

/-! ### What a performed write leaves of the harts and the time -/

/-- Between two states the hart in hand differs at most by its event bit, and no time passes. -/
def State.keepsHart (s t : State) : Prop := t.h = { s.h with event := t.h.event } ∧ t.dev.time = s.dev.time

theorem State.keepsHart_refl (s : State) : s.keepsHart s := ⟨rfl, rfl⟩

theorem State.keepsHart.trans {s t u : State} (h : s.keepsHart t) (k : t.keepsHart u) : s.keepsHart u :=
  ⟨by rw [k.1, h.1], k.2.trans h.2⟩

/-- A chain of steps each of which keeps the hart. -/
theorem State.foldl_keepsHart {α : Type} (f : State → α → State) (hf : ∀ (t : State) (a : α), t.keepsHart (f t a)) (l : List α) (s : State) :
    s.keepsHart (l.foldl f s) := by
  induction l generalizing s with
  | nil => exact s.keepsHart_refl
  | cons a l ih => exact (hf s a).trans (ih (f s a))

/-- A write performed at its home changes of the hart in hand only the event bit (R91). -/
theorem State.perform_keepsHart (s : State) (ag : Agent) (cs : List Host.Cell) : s.keepsHart (s.perform ag cs) := by
  refine ⟨?_, rfl⟩
  show s.h.seeWrite ag cs = { s.h with event := (s.h.seeWrite ag cs).event }
  unfold Hart.seeWrite
  split
  · rfl
  · split <;> rfl

theorem State.hearthWrite_keepsHart (s : State) (die w n v : Nat) : s.keepsHart (s.hearthWrite die w n v) := s.perform_keepsHart _ _

/-- A change of the device in which no time passes. -/
theorem State.mapDev_keepsHart (s : State) (f : Dev → Dev) (h : (f s.dev).time = s.dev.time) : s.keepsHart (s.mapDev f) := ⟨rfl, h⟩

theorem State.logError_keepsHart (s : State) (die : Nat) (kind : LogKind) (location requester ctxid : Nat) :
    s.keepsHart (s.logError die kind location requester ctxid) := by
  unfold State.logError
  dsimp only
  refine State.keepsHart.trans (State.keepsHart.trans ?_ (State.hearthWrite_keepsHart _ _ _ _ _)) (State.mapDev_keepsHart _ _ rfl)
  exact State.foldl_keepsHart _ (fun _ _ => State.hearthWrite_keepsHart _ _ _ _ _) _ s

theorem State.hearthChange_keepsHart (s : State) (die w : Nat) (f : Nat → Nat) : s.keepsHart (s.hearthChange die w f) := by
  unfold State.hearthChange
  split
  · exact (s.logError_keepsHart _ _ _ _ _).trans (State.hearthWrite_keepsHart _ _ _ _ _)
  · exact s.hearthWrite_keepsHart _ _ _ _

/-- A write that reaches its home. -/
theorem State.land_keepsHart (s : State) (w : Write) : s.keepsHart (s.land w) := by
  unfold State.land
  extract_lets u t
  have hu : s.keepsHart u := by unfold u; split <;> exact ⟨rfl, rfl⟩
  have ht : s.keepsHart t := hu.trans (u.perform_keepsHart _ _)
  split
  · exact hu.trans (u.logError_keepsHart _ _ _ _ _)
  · split
    · exact ht
    · exact ht.trans (State.mapDev_keepsHart _ _ rfl)

/-- Performing accepted writes. -/
theorem State.drainWhere_keepsHart (s : State) (p : Write → Bool) : s.keepsHart (s.drainWhere p) := by
  unfold State.drainWhere
  split
  · exact s.keepsHart_refl
  · exact State.keepsHart.trans ⟨rfl, rfl⟩ (State.foldl_keepsHart _ State.land_keepsHart _ _)

/-- Requests in the fabric move on the channels' numbers and nothing else (R323). -/
theorem State.asked_eq (endpoint own : Nat) (dies : List Nat) (s : State) :
    ∃ cs, s.asked endpoint own dies = s.mapDev (fun d => { d with channels := cs }) := by
  induction dies generalizing s with
  | nil => exact ⟨s.dev.channels, rfl⟩
  | cons d ds ih =>
    have e : ∃ cs, (if d = own then s else s.request endpoint d) = s.mapDev (fun d => { d with channels := cs }) := by
      unfold State.request
      split
      · exact ⟨s.dev.channels, rfl⟩
      · split
        · exact ⟨s.dev.channels, rfl⟩
        · exact ⟨_, rfl⟩
    obtain ⟨c, hc⟩ := e
    obtain ⟨cs, h⟩ := ih (s.mapDev (fun d => { d with channels := c }))
    exact ⟨cs, (congrArg (fun (t : State) => t.asked endpoint own ds) hc).trans h⟩

theorem State.asked_rest (s : State) (endpoint own : Nat) (dies : List Nat) :
    (s.asked endpoint own dies).h = s.h ∧ (s.asked endpoint own dies).dev.time = s.dev.time := by
  obtain ⟨cs, h⟩ := State.asked_eq endpoint own dies s
  rw [h]
  exact ⟨rfl, rfl⟩

/-- They do not touch the hart. -/
theorem State.asked_mapH (g : Hart → Hart) (endpoint own : Nat) (dies : List Nat) (s : State) :
    (s.mapH g).asked endpoint own dies = (s.asked endpoint own dies).mapH g := by
  induction dies generalizing s with
  | nil => rfl
  | cons d ds ih =>
    have e : (if d = own then s.mapH g else (s.mapH g).request endpoint d) = (if d = own then s else s.request endpoint d).mapH g := by
      unfold State.request
      split
      · rfl
      · split <;> rfl
    exact (congrArg (fun (t : State) => t.asked endpoint own ds) e).trans (ih _)

/-- Emptying the local memories of a core keeps the canonical form (R318). -/
theorem State.clearLocal_wf (s : State) (core : Nat) (h : s.mem.wf = true) : (s.clearLocal core).mem.wf = true :=
  Memory.wf_filter _ (s.drainWhere_wf _ h)

/-- Memory at reset lists nothing. -/
theorem State.reset_mem_wf : State.reset.mem.wf = true := rfl

end Sys2Proof.Machine
end

