-- ==== Sys2Proof/Laws/Flow.lean ====
section
/-!
SUPPORT. Sys2Proof/Laws/Flow.lean: moving the PC on, back edges and the ends of levels change nothing but the flow.
-/
namespace Sys2Proof.Machine

theorem State.flows_refl (s : State) : s.flows s := ⟨rfl, rfl⟩

theorem State.flows_trans {s t u : State} (h : s.flows t) (g : t.flows u) : s.flows u := by
  obtain ⟨h1, h2⟩ := h
  obtain ⟨g1, g2⟩ := g
  refine ⟨?_, g2.trans h2⟩
  rw [g1]
  rw [h1]
  rfl

/-- A change of the PC and the loop CSRs is flow. -/
theorem State.flows_mapH (s : State) (pc : Hart → Word) (l : Hart → Loops) :
    s.flows (s.mapH (fun h => { h with pc := pc h, loops := l h })) := ⟨rfl, rfl⟩

theorem State.closeStrip_flows (s : State) : s.flows s.closeStrip := ⟨rfl, by simp [State.closeStrip]⟩

theorem State.endLevel_flows (s : State) (n : Nat) : s.flows (s.endLevel n) := by
  unfold State.endLevel
  dsimp only
  split
  · exact State.flows_trans s.closeStrip_flows (State.flows_mapH _ (fun h => h.pc) _)
  · exact State.flows_mapH _ (fun h => h.pc) _

theorem State.backEdge_flows (s : State) (n : Nat) : s.flows (s.backEdge n) := by
  induction n generalizing s with
  | zero => exact s.flows_refl
  | succ n ih =>
    unfold State.backEdge
    dsimp only
    generalize hsp : nextSp _ _ _ = sp
    split
    · have hend : ∀ t : State, s.flows t → ∀ l : Level, s.flows ((t.endLevel n).mapH (fun h => { h with pc := l.lend })) :=
        fun t ht l => State.flows_trans ht (State.flows_trans (t.endLevel_flows n) (State.flows_mapH _ _ (fun h => h.loops)))
      split
      · split
        · exact State.flows_trans (hend _ (State.flows_mapH _ (fun h => h.pc) _) _) (ih _)
        · exact hend _ (State.flows_mapH _ (fun h => h.pc) _) _
      · exact hend _ (State.flows_mapH _ (fun h => h.pc) _) _
    · exact State.flows_trans (State.flows_mapH _ (fun h => h.pc) _) (State.flows_mapH _ _ (fun h => h.loops))

theorem State.advanceTo_flows (s : State) (next : Word) : s.flows (s.advanceTo next) := by
  unfold State.advanceTo
  split
  · split
    · exact s.backEdge_flows _
    · exact State.flows_mapH _ _ (fun h => h.loops)
  · exact State.flows_mapH _ _ (fun h => h.loops)

theorem State.advance_flows (s : State) : s.flows s.advance := s.advanceTo_flows _

theorem State.jumpTo_flows (s : State) (t : Word) : s.flows (s.jumpTo t) := by
  unfold State.jumpTo
  split
  · split
    · exact s.backEdge_flows _
    · exact State.flows_mapH _ _ (fun h => h.loops)
  · exact State.flows_mapH _ _ (fun h => h.loops)

theorem State.pop_flows (s : State) (k : Nat) : s.flows (s.pop k) := by
  induction k generalizing s with
  | zero => exact s.flows_refl
  | succ k ih => exact State.flows_trans (s.endLevel_flows _) (ih _)

/-! ### What flow leaves -/

theorem State.flows_mem {s t : State} (h : s.flows t) : t.mem = s.mem := by rw [h.1]; rfl
theorem State.flows_dev {s t : State} (h : s.flows t) : t.dev = s.dev := by rw [h.1]; rfl
theorem State.flows_core {s t : State} (h : s.flows t) : t.core = s.core := by rw [h.1]; rfl
theorem State.flows_cores {s t : State} (h : s.flows t) : t.cores = s.cores := by rw [h.1]; rfl
theorem State.flows_harts {s t : State} (h : s.flows t) : t.harts = s.harts := by rw [h.1]; rfl
theorem State.flows_forwarding {s t : State} (h : s.flows t) : t.forwarding = s.forwarding := by rw [h.1]; rfl
theorem State.flows_x {s t : State} (h : s.flows t) : t.h.x = s.h.x := by rw [h.1]; rfl
theorem State.flows_v {s t : State} (h : s.flows t) : t.h.v = s.h.v := by rw [h.1]; rfl
theorem State.flows_k {s t : State} (h : s.flows t) : t.h.k = s.h.k := by rw [h.1]; rfl
theorem State.flows_id {s t : State} (h : s.flows t) : t.h.id = s.h.id := by rw [h.1]; rfl
theorem State.flows_vl {s t : State} (h : s.flows t) : t.h.vl = s.h.vl := by rw [h.1]; rfl
theorem State.flows_vt {s t : State} (h : s.flows t) : t.h.vt = s.h.vt := by rw [h.1]; rfl
theorem State.flows_fflags {s t : State} (h : s.flows t) : t.h.fflags = s.h.fflags := by rw [h.1]; rfl
theorem State.flows_trap {s t : State} (h : s.flows t) : t.h.trap = s.h.trap := by rw [h.1]; rfl

/-- Every byte reads as before. -/
theorem State.flows_readByte {s t : State} (h : s.flows t) (vector : Bool) (k : Nat) :
    t.readByte vector k = s.readByte vector k := by
  unfold State.readByte State.readAs
  rw [h.2, State.flows_mem h, State.flows_dev h, State.flows_id h]

/-- With no level active, the PC moves on and nothing else happens. -/
theorem State.advanceTo_plain (s : State) (next : Word) (h : s.h.loops.lact = 0) :
    s.advanceTo next = s.mapH (fun h => { h with pc := next }) := by
  have : s.h.loops.inner = none := by simp [Loops.inner, Loops.depth, h, popcount]
  simp [State.advanceTo, this]

theorem State.jumpTo_plain (s : State) (t : Word) (h : s.h.loops.lact = 0) :
    s.jumpTo t = s.mapH (fun h => { h with pc := t }) := by
  have : s.h.loops.inner = none := by simp [Loops.inner, Loops.depth, h, popcount]
  simp [State.jumpTo, this]

end Sys2Proof.Machine
end

