-- ==== Sys2Proof/Laws/Vector.lean ====
section
/-!
SUPPORT. Sys2Proof/Laws/Vector.lean: a vector instruction in a convoy of its own, from its push to its retirement (R20, R27,
R68, R333).
-/
namespace Sys2Proof.Machine

/-- What the issue leaves of a convoy that became ready: its words and its successor. -/
theorem State.ready_some {s : State} {cv : Convoy} {p : Convoy × List Word} (h : s.ready cv = some p) :
    p.1.words = cv.words ∧ p.1.next = cv.next ∧ p.1.issued = true ∧ p.1.pc = cv.pc := by
  unfold State.ready at h
  dsimp only at h
  split at h
  · cases h
  · split at h
    · cases h
    · split at h
      · cases h
      · split at h
        · cases h
        · cases h; exact ⟨rfl, rfl, rfl, rfl⟩

/-- An entry of the TLBs does not touch the hart. -/
theorem State.entered_mapH (g : Hart → Hart) (hg : ∀ h, (g h).id = h.id ∧ (g h).ctxid = h.ctxid) (s : State) (a : Word) :
    (s.mapH g).entered a = (s.entered a).mapH g := by
  have hl : ∀ c, (s.mapH g).leafOf c a = s.leafOf c a := fun _ => rfl
  have ht : ∀ c, (s.mapH g).tlbFind c a = s.tlbFind c a := fun _ => rfl
  have hw : (s.mapH g).walkAsked s.h.ctxid a = (s.walkAsked s.h.ctxid a).mapH g := by
    unfold State.walkAsked
    rw [State.asked_mapH, State.mapH_h, (hg s.h).1]
    rfl
  have hk : (s.mapH g).walkedAs s.h.ctxid a = (s.walkedAs s.h.ctxid a).mapH g := by
    unfold State.walkedAs
    simp only [hl, hw]
    split <;> rfl
  have hv : ∀ c t, (s.mapH g).serves c a t = s.serves c a t := fun _ _ => rfl
  unfold State.entered State.enteredAs
  simp only [State.mapH_h, State.mapH_core, (hg s.h).2, ht, hv, hk]
  split
  · rfl
  · split
    · rfl
    · split <;> rfl

theorem State.enteredAll_mapH (g : Hart → Hart) (hg : ∀ h, (g h).id = h.id ∧ (g h).ctxid = h.ctxid) (as : List Word) (s : State) :
    (s.mapH g).enteredAll as = (s.enteredAll as).mapH g := by
  induction as generalizing s with
  | nil => rfl
  | cons a as ih =>
    show ((s.mapH g).entered a).enteredAll as = ((s.entered a).enteredAll as).mapH g
    rw [State.entered_mapH g hg, ih]

/-- Claims of panes do not touch the hart. -/
theorem State.takePanes_mapH (ps : List Nat) (g : Hart → Hart) (s : State) (hg : ∀ h, (g h).id = h.id) :
    (s.mapH g).takePanes ps = (s.takePanes ps).mapH g := by
  induction ps generalizing s with
  | nil => rfl
  | cons p ps ih =>
    have e : (s.mapH g).onPane p (fun q => { q with owner := some (s.mapH g).h.id })
        = (s.onPane p (fun q => { q with owner := some s.h.id })).mapH g := by
      simp only [State.onPane, State.mapCore, State.mapH, hg]
    exact (congrArg (fun (t : State) => t.takePanes ps) e).trans (ih _)

/-- An entry of the TLBs leaves the hart, the other harts and the time. -/
theorem State.enteredAll_rest (as : List Word) (s : State) : (s.enteredAll as).h = s.h ∧ (s.enteredAll as).dev.time = s.dev.time := by
  induction as generalizing s with
  | nil => exact ⟨rfl, rfl⟩
  | cons a as ih =>
    have e : (s.entered a).h = s.h ∧ (s.entered a).dev.time = s.dev.time := by
      have w := State.asked_rest s (walkerOf (dieOfHart s.h.id)) (dieOfHart s.h.id) (s.leafReads s.h.ctxid.toNat a)
      have k : (s.walkedAs s.h.ctxid a).h = s.h ∧ (s.walkedAs s.h.ctxid a).dev.time = s.dev.time := by
        unfold State.walkedAs
        split <;> exact ⟨w.1, w.2⟩
      unfold State.entered State.enteredAs
      split
      · exact k
      · split
        · exact k
        · split <;> exact ⟨rfl, rfl⟩
    have h := ih (s.entered a)
    exact ⟨h.1.trans e.1, h.2.trans e.2⟩

theorem State.takePanes_rest (ps : List Nat) (s : State) : (s.takePanes ps).h = s.h ∧ (s.takePanes ps).dev = s.dev := by
  induction ps generalizing s with
  | nil => exact ⟨rfl, rfl⟩
  | cons p ps ih => exact ih _

/-- Words that read no table leave nothing before their reads (R244, R278). -/
theorem State.tablesHome_none (s : State) {ws : List Instr} (h : ws.any readsTable = false) : s.tablesHome ws = s := by
  simp [State.tablesHome, h]

theorem State.tablesRead_none (s : State) {cv : Convoy} (h : cv.words.any readsTable = false) : s.tablesRead cv = s := by
  simp [State.tablesRead, h]

/-- A convoy that reads no table runs in the state that its issue leaves. -/
theorem State.atRetire_none (s : State) {cv : Convoy} (h : cv.words.any readsTable = false) : s.atRetire cv = s.afterIssue cv :=
  State.tablesRead_none _ h

theorem State.tablesHome_keepsHart (s : State) (ws : List Instr) : s.keepsHart (s.tablesHome ws) := by
  unfold State.tablesHome
  split
  · exact s.drainWhere_keepsHart _
  · exact s.keepsHart_refl

/-- The issue of a convoy leaves it in the queue, and the hart as overdue as it was. -/
theorem State.afterIssue_rest (s : State) (cv : Convoy) :
    (s.afterIssue cv).h = { s.h with convoys := [cv], event := (s.afterIssue cv).h.event } ∧ (s.afterIssue cv).dev.time = s.dev.time := by
  have e := State.enteredAll_rest (cv.words.flatMap s.soleAddresses) (s.takePanes cv.claimed)
  have t := State.takePanes_rest cv.claimed s
  have r := State.tablesHome_keepsHart ((((s.takePanes cv.claimed).enteredAll (cv.words.flatMap s.soleAddresses)).mapH
    (fun h => { h with convoys := [cv] })).mapCore (fun k => { k with rrIssue := (s.h.id % 4 + 1) % 4 })) cv.words
  refine ⟨r.1.trans ?_, r.2.trans ?_⟩
  · simp only [State.mapCore_h, State.mapH_h, e.1, t.1]
    rfl
  · simp only [State.mapCore_dev, State.mapH_dev, e.2, t.2]

theorem State.afterIssue_overdue (s : State) (cv : Convoy) :
    (s.afterIssue cv).h.overdue (s.afterIssue cv).dev.time = s.h.overdue s.dev.time := by
  rw [(s.afterIssue_rest cv).1, (s.afterIssue_rest cv).2]
  rfl

/-- A convoy that holds no late word runs as it was issued (R212, R260). -/
theorem State.settled_plain (s : State) {cv : Convoy} (h : lateWord cv.words = false) : s.settled cv = some (cv, []) := by
  simp [State.settled, h]

theorem lateWord_sole (i : Instr) : lateWord [i] = false := by simp [lateWord]

/-- A vector instruction whose convoy is ready, whose definition does not refuse it with ILL, and whose slot succeeds with
`c`, retires: everything it did commits and the hart goes on behind it. -/
theorem State.runVector_ready {s : State} {i : Instr} {cv : Convoy} {op : VOp} {v : VArgs} {c : Ctx}
    (hr : vectorReady i s = true) (hop : opOf i = some (op, v)) (hcv : s.soleIssue i = some cv)
    (hill : op.ill v (s.queued i) = false) (hrun : op.run v (Ctx.start (s.atRetire cv) cv) = .ok c) :
    s.runVector i = .next c.retire := by
  simp only [vectorReady, hcv, Bool.and_eq_true, Bool.not_eq_true', beq_iff_eq, bne_iff_ne, Option.isNone_iff_eq_none,
    List.isEmpty_iff] at hr
  obtain ⟨⟨⟨⟨⟨⟨⟨⟨⟨hpc, hf⟩, hq⟩, _⟩, hdue⟩, hvs⟩, hov⟩, hlost⟩, hy⟩, href, hh⟩ := hr
  obtain ⟨p, hp, rfl⟩ := Option.map_eq_some_iff.mp hcv
  have hw := State.ready_some hp
  have hwords : p.1.words = [i] := hw.1
  have hvas : p.1.words.flatMap s.soleAddresses = p.2 := by simp [hwords, State.soleAddresses, hp]
  have h1 : s.pushConvoy none [i] (s.h.pc + 12) = .next (s.queued i) := by
    unfold State.pushConvoy
    dsimp only
    rw [if_neg (by rw [hov]; exact Bool.false_ne_true), if_neg hvs, if_pos rfl]
    simp only [State.queued, State.mapH, hq]
    rfl
  have h2 : (s.queued i).issueConvoy = s.afterIssue p.1 := by
    unfold State.issueConvoy
    have e : (s.queued i).h.convoys = [s.soleConvoy i] := rfl
    rw [e]
    have hill' : (s.soleConvoy i).illFrom (s.queued i) 0 (s.soleConvoy i).words = none := by
      show Convoy.illFrom _ _ 0 [i] = none
      simp [Convoy.illFrom, hop, hill]
    have hiss : (s.soleConvoy i).issued = false := rfl
    have hcore : (s.queued i).core.id = s.core.id := rfl
    have hid : (s.queued i).h.id = s.h.id := rfl
    simp only [hiss, hill', hlost, hcore, hid, hy, hp]
    simp only [Bool.false_eq_true, if_false]
    unfold State.queued State.afterIssue
    rw [hvas, State.takePanes_mapH p.1.claimed (fun h => { h with convoys := [s.soleConvoy i] }) s (fun _ => rfl),
      State.enteredAll_mapH (fun h => { h with convoys := [s.soleConvoy i] }) (fun _ => ⟨rfl, rfl⟩), hw.1]
    rfl
  have h3 : (s.afterIssue p.1).retireConvoy = c.retire := by
    unfold State.retireConvoy
    have e : (s.afterIssue p.1).h.convoys = [p.1] := by rw [(s.afterIssue_rest p.1).1]
    have hlate : (s.afterIssue p.1).h.overdue (s.afterIssue p.1).dev.time = false := by
      rw [State.afterIssue_overdue]; exact hdue
    have hs := ((s.afterIssue p.1).tablesRead p.1).settled_plain (hwords ▸ lateWord_sole i)
    rw [e]
    simp only [hs, show ∀ t : State, t.enteredAll [] = t from fun _ => rfl, hw.2.2.1, hwords, List.any_cons, List.any_nil, hh, hlate, Bool.not_true, Bool.or_false, Bool.false_eq_true, if_false,
      runSlots, hop, show (Ctx.start ((s.afterIssue p.1).tablesRead p.1) p.1).runSlot op v = .ok c by
        unfold Ctx.runSlot; rw [show (Ctx.start ((s.afterIssue p.1).tablesRead p.1) p.1).cv.refused = none from href]; exact hrun]
    rfl
  unfold State.runVector
  rw [if_neg (by rw [hpc]; simp), hf]
  dsimp only
  rw [h1]
  dsimp only
  rw [h2, h3]

/-- X writes and the queue do not meet. -/
theorem Hart.wx_convoys_comm (h : Hart) (xw : List (XReg × Word)) (cs : List Convoy) :
    xw.foldl (fun h p => h.wx p.1 p.2) { h with convoys := cs } = { xw.foldl (fun h p => h.wx p.1 p.2) h with convoys := cs } := by
  induction xw generalizing h with
  | nil => rfl
  | cons p xw ih =>
    have e : Hart.wx { h with convoys := cs } p.1 p.2 = { h.wx p.1 p.2 with convoys := cs } := by
      unfold Hart.wx; split <;> rfl
    simp only [List.foldl_cons, e]
    exact ih _

/-- X writes that reach no pipeline change nothing of it. -/
theorem Hart.showX_none (h : Hart) (xw : List (XReg × Word)) (hf : h.front = none) : h.showX xw = h := by
  unfold Hart.showX
  rw [hf]
  cases h
  simp_all

theorem Hart.wx_fold_front (h : Hart) (xw : List (XReg × Word)) : (xw.foldl (fun h p => h.wx p.1 p.2) h).front = h.front := by
  induction xw generalizing h with
  | nil => rfl
  | cons p xw ih => rw [List.foldl_cons, ih]; simp

/-- The retirement of a sole convoy that took no pane, read no table and translated nothing, and whose slot had no effect beside its
registers. -/
theorem Ctx.retire_registers {s : State} {cv : Convoy} {c : Ctx} (hq : s.h.convoys = []) (hfr : s.h.front = none)
    (hcl : cv.claimed = []) (hva : cv.words.flatMap s.soleAddresses = []) (hn : cv.next = s.h.pc + 12)
    (htb : cv.words.any readsTable = false) (ht : c.t = s.atRetire cv) (hc : c.cv = cv) :
    c.retire = s.vectorDone (fun h => { c.xw.foldl (fun h p => h.wx p.1 p.2) h with
      v := c.v, k := c.k, fflags := h.fflags ||| c.fl, vdirty := h.vdirty ||| c.vw, kdirty := h.kdirty ||| c.kw,
      vstate := if (c.vw ≠ 0 ∨ c.kw ≠ 0) ∧ (h.vstate = 1 ∨ h.vstate = 2) then 3 else h.vstate }) := by
  have e0 : s.afterIssue cv = (s.mapCore (fun k => { k with rrIssue := (s.h.id % 4 + 1) % 4 })).mapH
      (fun h => { h with convoys := [cv] }) := by
    unfold State.afterIssue; rw [State.tablesHome_none _ htb, hcl, hva]; rfl
  have hwx : ∀ (h : Hart) (xw : List (XReg × Word)), (xw.foldl (fun h p => h.wx p.1 p.2) h).convoys = h.convoys := by
    intro h xw
    induction xw generalizing h with
    | nil => rfl
    | cons p xw ih => rw [List.foldl_cons, ih]; simp
  unfold Ctx.retire State.vectorDone
  rw [hc, hn]
  refine congrArg (fun t => State.advanceTo t (s.h.pc + 12)) ?_
  unfold Ctx.commit
  rw [ht, State.atRetire_none s htb, e0]
  have hw := hwx s.h c.xw
  rw [hq] at hw
  simp only [State.mapH, State.mapCore]
  rw [Hart.wx_convoys_comm]
  rw [Hart.showX_none _ _ (by simpa [Hart.wx_fold_front] using hfr)]
  simp only [List.drop_succ_cons, List.drop_zero]
  generalize c.xw.foldl (fun h p => h.wx p.1 p.2) s.h = g at hw
  cases g
  cases hw
  rfl

end Sys2Proof.Machine
end

