-- ==== Sys2Proof/Tests/Slice0.lean ====
section
/-!
SUPPORT. Sys2Proof/Tests/Slice0.lean: ill-formed terms that the checks refuse, words written out from the encoding tables, one
step on small states with the results that the spec's examples and tables give, and for every obligation with hypotheses a
state that meets them.
-/
namespace Sys2Proof.Tests
set_option Elab.async false
open Sys2Proof.Machine

/-! ### Ill-formed terms, one for each check of Sys2Proof/WellFormed.lean -/

/-- A vector word's fields. -/
def va (vd vs1 vs2 km : Nat) (kinv : Bool) (form xs ext : Nat) : VArgs :=
  { vd := BitVec.ofNat 6 vd, vs1 := BitVec.ofNat 6 vs1, vs2 := BitVec.ofNat 6 vs2, km := BitVec.ofNat 4 km, kinv := kinv,
    form := BitVec.ofNat 3 form, xs := BitVec.ofNat 5 xs, ext := BitVec.ofNat 26 ext }

/-- Form VV, unmasked. -/
def vv (vd vs1 vs2 : Nat) : VArgs := va vd vs1 vs2 15 false 0 0 0

/-- A stream word's fields. -/
def wq (qn tn xa xb mode : Nat) : WqArgs :=
  { qn := BitVec.ofNat 4 qn, tn := BitVec.ofNat 6 tn, xa := BitVec.ofNat 5 xa, xb := BitVec.ofNat 5 xb, mode := BitVec.ofNat 3 mode }

/-- A header for one word of a unit. -/
def header (unit : Nat) : ConvoyHeader :=
  { nMinus1 := 0, stg := false, stage := 0, slot0 := BitVec.ofNat 3 unit, slot1 := 0, slot2 := 0, slot3 := 0, slot4 := 0,
    slot5 := 0, long := false, pri := 0 }

theorem test_ill_formed_scalar :
    ([.loop 1 0 false 0, .loops 1 0 false false 0, .lexit 12, .bext 1 2 0 0, .bextu 1 2 60 5, .bins 1 2 63 2, .bar 3 .hart,
      .bar 3 .core, .convoy (header 0) [], .nonInstructionEncoding 0x042CE000] : List Instr).all (fun i => !i.wf) = true := by
  decide +kernel

theorem test_ill_formed_wq :
    ([.qld (wq 0 0 0 0 3), .qst (wq 0 0 0 0 3), .qred (wq 0 0 0 0 1), .qfold (wq 0 0 0 1 0), .qnvm (wq 0 1 0 0 0),
      .qnvm (wq 0 0 0 1 1), .qwait (wq 0 1 0 0 0), .qavail (wq 0 1 0 0 0), .qclose (wq 0 0 1 0 0), .qsave (wq 0 0 0 1 0),
      .qrest (wq 0 0 0 1 0), .talloc (wq 1 0 0 0 0), .tfree (wq 0 0 1 0 0), .tstat (wq 0 0 0 1 0), .tset (wq 0 0 0 0 0),
      .tred (wq 0 0 0 1 0)] : List Instr).all (fun i => !i.wf) = true := by
  decide +kernel

/-- Register numbers, masks, forms, banks, unused fields and field values of vector words. -/
theorem test_ill_formed_vector :
    ([.vadd (vv 48 1 2), .vadd (vv 1 48 2), .vadd (vv 1 2 49), .vadd (va 1 2 3 12 false 0 0 0), .vadd (va 1 2 3 15 true 0 0 0),
      .vadd (va 1 2 3 15 false 4 0 0), .vadd (vv 1 2 4), .vadd (va 1 2 3 15 false 0 1 0), .vadd (va 1 2 3 15 false 0 0 1),
      .vcmpeq (vv 12 2 3), .vfsgn (va 1 2 3 15 false 0 0 3), .vfcvt (va 1 2 0 15 false 0 0 8), .kand (va 1 2 3 0 false 0 0 0),
      .vslup (va 1 2 0 15 false 2 0 0x3FFFC00), .vldx (va 1 0 2 15 false 4 3 3), .mma (va 4 1 0 15 false 5 0 0),
      .mma (va 8 1 0 15 false 5 0 (48 * 2 ^ 20)), .mconv (va 8 1 0 15 false 5 0 (8 * 2 ^ 16)), .hcode (va 1 0 0 15 false 7 0 (48 * 2 ^ 18)),
      .hprobe (va 1 2 0 15 false 7 4 12), .hins (va 12 2 3 15 false 7 4 0), .hrehash (va 0 0 0 15 false 7 4 0),
      .hfence (va 0 0 0 15 false 7 0 6)] : List Instr).all (fun i => !i.wf) = true := by
  decide +kernel

theorem test_ill_formed_events :
    ([.convoyIssue 12288, .convoyRetire 12288, .hprobeReadStep 0 8, .hrehashPass 12288 false, .matrixUpdateApply 0 16 false,
      .clusterRelease 3072 0, .clusterRelease 0 8, .ssbCommit 12288, .orderedWaitRelease 12288, .wfeWake 12288, .wfeTimeout 12288,
      .barRelease 12288, .qwaitReturn 12288, .qcloseReturn 12288, .streamStart 12288, .streamElementArrival 0 16 0,
      .streamFail 0 0 0, .streamFail 0 0 8, .qredSend 0 16, .qredContributionArrival 0 16, .qfoldApply 0 16, .tileUseDrain 12288,
      .tlbWalkComplete 12288 0, .abortCompletion 0 0 4096 0, .abortCompletion 0 0 0 32, .preempt 12288, .timer 12288,
      .preemptDeadline 12288, .preemptTrapEntry 12288, .vtagWrite 48 0, .loopCsrWrite 0x035 0, .loopCsrWrite 0x11F 0,
      .debuggerAttach 1024, .debugResume 12288, .shootdownRequest 6, .shootdownComplete 6, .attestationRequest 6,
      .queueNotify 6 0, .queueStart 0 64, .queueDrain 6 0, .queueKill 0 64, .queueCmdClear 6 0, .hartExit 12288,
      .groupRetire 0 65536, .fabricRequestArrival 6 0 0 0, .fabricRequestArrival 0 0 65536 0, .fabricRequestArrival 0 0 0 256,
      .fabricAckArrival 0 6 0, .linkDeath 1 1, .linkDeath 0 6, .uetMessage (.write 6 0 []), .uetMessage (.read 0 (2 ^ 37) 1),
      .portFailure 12, .bringUp 0, .bringUp 6, .overtempKill 6] : List Instr).all (fun i => !i.wf) = true := by
  decide +kernel

/-! ### Words written out from the encoding tables (Tables 2.1 to 2.5, 3.1 to 3.3) -/

/-- W3: xd [27:23], xa [22:18], xb [17:13], fn7 [12:6]. -/
def w3 (fn d a b : Nat) : Word32 := BitVec.ofNat 32 (d * 2 ^ 23 + a * 2 ^ 18 + b * 2 ^ 13 + fn * 2 ^ 6)

theorem test_decode_w3 :
    ([(0x00, .add), (0x01, .sub), (0x02, .and), (0x03, .or), (0x04, .xor), (0x05, .sll),
      (0x06, .srl), (0x07, .sra), (0x08, .slt), (0x09, .sltu), (0x0A, .min), (0x0B, .max),
      (0x0C, .minu), (0x0D, .maxu), (0x0E, .andn), (0x10, .mul), (0x11, .mulh), (0x12, .mulhu),
      (0x13, .div), (0x14, .divu), (0x15, .rem), (0x16, .remu), (0x20, .vsetvl)] : List (Nat × (XReg → XReg → XReg → Instr))).all
      (fun p => decodeWord (w3 p.1 17 9 30) == p.2 17 9 30) = true := by decide +kernel

theorem test_decode_w3_unary :
    decodeWord (w3 0x18 17 9 0) = .clz 17 9 ∧ decodeWord (w3 0x19 17 9 0) = .ctz 17 9 ∧ decodeWord (w3 0x1A 17 9 0) = .popc 17 9 ∧
    decodeWord (w3 0x18 17 9 1) = .nonInstructionEncoding (w3 0x18 17 9 1) ∧
    decodeWord (w3 0x0F 17 9 0) = .nonInstructionEncoding (w3 0x0F 17 9 0) := by decide +kernel

/-- Other majors: xd or xs [27:23], xa [22:18], and the rest of the word. -/
def wd (major d a rest : Nat) : Word32 := BitVec.ofNat 32 (major * 2 ^ 28 + d * 2 ^ 23 + a * 2 ^ 18 + rest)

theorem test_decode_wi :
    decodeWord (wd 1 17 9 0x2001) = .addi 17 9 0x2001 ∧ decodeWord (wd 1 17 9 (1 * 2 ^ 14 + 0x2001)) = .andi 17 9 0x2001 ∧
    decodeWord (wd 1 17 9 (2 * 2 ^ 14 + 0x2001)) = .ori 17 9 0x2001 ∧ decodeWord (wd 1 17 9 (3 * 2 ^ 14 + 0x2001)) = .xori 17 9 0x2001 ∧
    decodeWord (wd 1 17 9 (4 * 2 ^ 14 + 0x2001)) = .slti 17 9 0x2001 ∧ decodeWord (wd 1 17 9 (5 * 2 ^ 14 + 0x2001)) = .sltiu 17 9 0x2001 ∧
    decodeWord (wd 1 17 9 (6 * 2 ^ 14 + 0x21)) = .slli 17 9 0x21 ∧ decodeWord (wd 1 17 9 (7 * 2 ^ 14 + 0x21)) = .srli 17 9 0x21 ∧
    decodeWord (wd 1 17 9 (8 * 2 ^ 14 + 0x21)) = .srai 17 9 0x21 := by decide +kernel

theorem test_decode_memory :
    ([(2, 0, .ldb), (2, 1, .ldh), (2, 2, .ldw), (2, 3, .ldd), (2, 4, .ldbu), (2, 5, .ldhu), (2, 6, .ldwu), (3, 0, .stb), (3, 1, .sth),
      (3, 2, .stw), (3, 3, .std), (4, 0, .beq), (4, 1, .bne), (4, 2, .blt), (4, 3, .bge), (4, 4, .bltu), (4, 5, .bgeu)] :
      List (Nat × Nat × (XReg → XReg → BitVec 15 → Instr))).all
      (fun p => decodeWord (wd p.1 17 9 (p.2.1 * 2 ^ 15 + 0x4001)) == p.2.2 17 9 0x4001) = true := by decide +kernel

theorem test_decode_wide :
    decodeWord (wd 5 17 0 0x400001) = .jal 17 0x400001 ∧ decodeWord (wd 6 17 9 0x20001) = .jalr 17 9 0x20001 ∧
    decodeWord (wd 7 17 0 0x400001) = .lui 17 0x400001 ∧ decodeWord (wd 8 17 0 0x400001) = .addpc 17 0x400001 := by decide +kernel

/-- WA: xb [17:13], op [12:9], size [8], order [7:5], scope [4:2]. -/
theorem test_decode_wa :
    ([(0, .amoswap), (1, .amoadd), (2, .amoand), (3, .amoor), (4, .amoxor), (5, .amomin), (6, .amomax), (7, .amominu), (8, .amomaxu),
      (9, .amocas)] : List (Nat × (XReg → XReg → XReg → AmoSize → AmoOrder → Scope → Instr))).all (fun p =>
        decodeWord (wd 9 17 9 (30 * 2 ^ 13 + p.1 * 2 ^ 9 + 1 * 2 ^ 8 + 2 * 2 ^ 5 + 4 * 2 ^ 2)) == p.2 17 9 30 .d .rel .dev) = true := by
  decide +kernel

/-- WY: fn4 [27:24], xd [23:19], xa [18:14], CSR [13:2]. -/
def wy (fn d a sub : Nat) : Word32 := BitVec.ofNat 32 (0xA * 2 ^ 28 + fn * 2 ^ 24 + d * 2 ^ 19 + a * 2 ^ 14 + sub)

theorem test_decode_wy :
    decodeWord (wy 0 17 9 (0x143 * 4)) = .csrrw 17 9 0x143 ∧ decodeWord (wy 1 17 9 (0x143 * 4)) = .csrrs 17 9 0x143 ∧
    decodeWord (wy 2 17 9 (0x143 * 4)) = .csrrc 17 9 0x143 ∧ decodeWord (wy 3 17 9 (0x143 * 4)) = .csrrwi 17 9 0x143 ∧
    decodeWord (wy 4 0 0 0x2001) = .trap 0x2001 ∧ decodeWord (wy 5 0 0 0) = .eret ∧
    decodeWord (wy 6 0 0 (2 * 2 ^ 11 + 5 * 2 ^ 8)) = .fence .vv .sys ∧ decodeWord (wy 7 0 9 (3 * 2 ^ 8)) = .bar 9 .die ∧
    decodeWord (wy 8 0 9 0) = .wfe 9 ∧ decodeWord (wy 9 0 0 0) = .yield ∧ decodeWord (wy 10 0 0 0) = .snap ∧
    decodeWord (wy 11 0 0 0) = .brk ∧ decodeWord (wy 12 0 0 0) = .ifence := by decide +kernel

theorem test_decode_wp :
    decodeWord (BitVec.ofNat 32 (0xB * 2 ^ 28 + 9 * 2 ^ 21 + 5 * 2 ^ 18 + 2 ^ 17 + 0x8001)) = .loop 9 5 true 0x8001 ∧
    decodeWord (BitVec.ofNat 32 (0xB * 2 ^ 28 + 2 ^ 26 + 9 * 2 ^ 21 + 5 * 2 ^ 18 + 2 ^ 16 + 0x8001)) = .loops 9 5 false true 0x8001 ∧
    decodeWord (BitVec.ofNat 32 (0xB * 2 ^ 28 + 2 * 2 ^ 26 + 0 * 2 ^ 22 + 11 * 2 ^ 18)) = .lexit 11 ∧
    decodeWord (BitVec.ofNat 32 (0xB * 2 ^ 28 + 2 * 2 ^ 26 + 1 * 2 ^ 22 + 2 * 2 ^ 20 + 0x8001)) = .lbrk 2 0x8001 ∧
    decodeWord (BitVec.ofNat 32 (0xB * 2 ^ 28 + 2 * 2 ^ 26 + 2 * 2 ^ 22 + 3 * 2 ^ 20)) = .lpop 3 := by decide +kernel

/-- WQ: fn5 [27:23], Qn [22:19], Tn [18:13], xa [12:8], xb [7:3], mode [2:0]. -/
def wqWord (fn q t a b m : Nat) : Word32 :=
  BitVec.ofNat 32 (0xC * 2 ^ 28 + fn * 2 ^ 23 + q * 2 ^ 19 + t * 2 ^ 13 + a * 2 ^ 8 + b * 2 ^ 3 + m)

theorem test_decode_wq :
    ([(0x00, 9, 33, 17, 30, 2, .qld), (0x01, 9, 33, 17, 30, 6, .qst), (0x02, 9, 33, 17, 30, 0, .qred), (0x03, 9, 33, 17, 0, 1, .qfold),
      (0x04, 9, 0, 17, 30, 0, .qnvm), (0x05, 9, 0, 17, 0, 0, .qwait), (0x06, 9, 0, 17, 0, 0, .qavail), (0x07, 9, 0, 0, 0, 0, .qclose),
      (0x08, 9, 0, 17, 0, 0, .qsave), (0x09, 9, 0, 17, 0, 0, .qrest), (0x10, 0, 33, 17, 30, 0, .talloc), (0x11, 0, 33, 0, 0, 0, .tfree),
      (0x12, 0, 33, 17, 0, 0, .tstat), (0x13, 0, 33, 0, 0, 1, .tset), (0x14, 0, 33, 17, 0, 0, .tred)] :
      List (Nat × Nat × Nat × Nat × Nat × Nat × (WqArgs → Instr))).all (fun (f, q, t, a, b, m, c) =>
        decodeWord (wqWord f q t a b m) == c (wq q t a b m)) = true := by decide +kernel

theorem test_decode_vsetvli :
    decodeWord (BitVec.ofNat 32 (0xC * 2 ^ 28 + 0x18 * 2 ^ 23 + 3 * 2 ^ 20 + 4 * 2 ^ 17 + 1 * 2 ^ 14 + 9 * 2 ^ 8 + 17 * 2 ^ 3 + 2 * 2)) =
      .vsetvli 17 9 3 4 1 2 := by decide +kernel

/-- WF: fn3 [27:25], xd [24:20], xa [19:15], and the rest. -/
theorem test_decode_wf :
    decodeWord (BitVec.ofNat 32 (0xD * 2 ^ 28 + 0 * 2 ^ 25 + 17 * 2 ^ 20 + 9 * 2 ^ 15 + 33 * 2 ^ 9 + 20 * 2 ^ 3)) = .bext 17 9 33 20 ∧
    decodeWord (BitVec.ofNat 32 (0xD * 2 ^ 28 + 1 * 2 ^ 25 + 17 * 2 ^ 20 + 9 * 2 ^ 15 + 33 * 2 ^ 9 + 20 * 2 ^ 3)) = .bextu 17 9 33 20 ∧
    decodeWord (BitVec.ofNat 32 (0xD * 2 ^ 28 + 2 * 2 ^ 25 + 17 * 2 ^ 20 + 9 * 2 ^ 15 + 33 * 2 ^ 9 + 20 * 2 ^ 3)) = .bins 17 9 33 20 ∧
    decodeWord (BitVec.ofNat 32 (0xD * 2 ^ 28 + 3 * 2 ^ 25 + 17 * 2 ^ 20 + 9 * 2 ^ 15 + 30 * 2 ^ 10 + 33 * 2 ^ 4)) = .fshl 17 9 30 33 ∧
    decodeWord (BitVec.ofNat 32 (0xD * 2 ^ 28 + 4 * 2 ^ 25 + 17 * 2 ^ 20 + 9 * 2 ^ 15 + 30 * 2 ^ 10 + 33 * 2 ^ 4)) = .fshr 17 9 30 33 ∧
    decodeWord (BitVec.ofNat 32 (0xD * 2 ^ 28 + 5 * 2 ^ 25 + 17 * 2 ^ 20 + 9 * 2 ^ 15 + 30 * 2 ^ 10)) = .bextv 17 9 30 := by decide +kernel

/-- A vector word: op7 [63:57], vd [56:51], vs1 [50:45], vs2 [44:39], km [38:35], kinv [34], form [33:31], xs [30:26], ext [25:0]. -/
def word (op vd vs1 vs2 km kinv form xs ext : Nat) : Word :=
  BitVec.ofNat 64 (op * 2 ^ 57 + vd * 2 ^ 51 + vs1 * 2 ^ 45 + vs2 * 2 ^ 39 + km * 2 ^ 35 + kinv * 2 ^ 34 + form * 2 ^ 31 + xs * 2 ^ 26 + ext)

/-- Words of one unit and one setting of the fields decode to their instructions. -/
def decodes (unit vd vs1 vs2 km : Nat) (kinv : Bool) (form xs ext : Nat) (l : List (Nat × (VArgs → Instr))) : Bool :=
  l.all (fun p => vecInstr unit (word p.1 vd vs1 vs2 km kinv.toNat form xs ext) == some (p.2 (va vd vs1 vs2 km kinv form xs ext))
    && !encFault unit (word p.1 vd vs1 vs2 km kinv.toNat form xs ext))

theorem test_decode_valu :
    decodes 0 33 20 7 11 true 0 0 0 [(0x00, .vadd), (0x01, .vsub), (0x03, .vand), (0x04, .vor), (0x05, .vxor), (0x06, .vsll),
        (0x07, .vsrl), (0x08, .vsra), (0x09, .vmin), (0x0A, .vmax), (0x0B, .vminu), (0x0C, .vmaxu), (0x0D, .vadds),
        (0x0E, .vsubs), (0x0F, .vaddus), (0x10, .vmul), (0x11, .vmulh), (0x12, .vmulhu), (0x13, .vmacc), (0x16, .vmerge)] = true ∧
    decodes 1 33 20 0 11 true 1 30 0 [(0x00, .vadd), (0x01, .vsub), (0x03, .vand), (0x04, .vor), (0x05, .vxor), (0x06, .vsll),
        (0x07, .vsrl), (0x08, .vsra), (0x09, .vmin), (0x0A, .vmax), (0x0B, .vminu), (0x0C, .vmaxu), (0x0D, .vadds),
        (0x0E, .vsubs), (0x0F, .vaddus), (0x10, .vmul), (0x11, .vmulh), (0x12, .vmulhu), (0x13, .vmacc), (0x16, .vmerge),
        (0x02, .vrsub)] = true ∧
    decodes 0 33 20 0 15 false 2 0 (0x8001 * 2 ^ 10) [(0x00, .vadd), (0x01, .vsub), (0x03, .vand), (0x04, .vor), (0x05, .vxor),
        (0x06, .vsll), (0x07, .vsrl), (0x08, .vsra), (0x09, .vmin), (0x0A, .vmax), (0x0B, .vminu), (0x0C, .vmaxu),
        (0x0D, .vadds), (0x0E, .vsubs), (0x0F, .vaddus), (0x10, .vmul), (0x11, .vmulh), (0x12, .vmulhu), (0x13, .vmacc),
        (0x16, .vmerge), (0x02, .vrsub)] = true ∧
    decodes 0 11 20 7 0 false 0 0 0 [(0x18, .vcmpeq), (0x19, .vcmpne), (0x1A, .vcmplt), (0x1B, .vcmpltu), (0x1C, .vcmple),
        (0x1D, .vcmpleu)] = true ∧
    decodes 0 11 20 0 0 false 1 30 0 [(0x18, .vcmpeq), (0x19, .vcmpne), (0x1A, .vcmplt), (0x1B, .vcmpltu), (0x1C, .vcmple),
        (0x1D, .vcmpleu), (0x1E, .vcmpgt)] = true ∧
    decodes 0 33 20 0 3 false 0 0 0 [(0x14, .vwiden), (0x17, .vmv)] = true ∧
    decodes 0 33 20 0 3 false 0 0 1 [(0x15, .vnarrow)] = true ∧
    decodes 0 33 0 0 3 false 0 0 0 [(0x33, .vid)] = true := by decide +kernel

theorem test_decode_valu_fp :
    decodes 0 33 20 7 11 true 0 0 0 [(0x20, .vfadd), (0x21, .vfsub), (0x22, .vfmul), (0x23, .vfdiv), (0x25, .vfma),
        (0x26, .vfms), (0x27, .vfnma), (0x28, .vfmin), (0x29, .vfmax)] = true ∧
    decodes 1 33 20 0 11 true 1 30 0 [(0x20, .vfadd), (0x21, .vfsub), (0x22, .vfmul), (0x23, .vfdiv), (0x25, .vfma),
        (0x26, .vfms), (0x27, .vfnma), (0x28, .vfmin), (0x29, .vfmax)] = true ∧
    decodes 0 33 20 7 11 false 0 0 2 [(0x2A, .vfsgn)] = true ∧
    decodes 0 11 20 7 1 false 0 0 0 [(0x2B, .vfcmpeq), (0x2C, .vfcmplt), (0x2D, .vfcmple)] = true ∧
    decodes 0 33 20 0 11 false 0 0 0 [(0x24, .vfsqrt), (0x2E, .vfclass)] = true ∧
    decodes 0 33 20 0 11 false 0 0 7 [(0x2F, .vfcvt)] = true ∧
    decodes 0 33 20 0 15 false 0 0 1 [(0x30, .vbscale)] = true ∧
    decodes 0 33 20 7 15 false 0 0 1 [(0x31, .vbquant), (0x32, .vbdeq)] = true := by decide +kernel

theorem test_decode_vperm :
    decodes 3 33 20 0 11 true 1 30 0 [(0x00, .vslup), (0x01, .vsldn)] = true ∧
    decodes 3 33 20 0 11 true 2 0 (0x7001 * 2 ^ 10) [(0x00, .vslup), (0x01, .vsldn)] = true ∧
    decodes 3 33 20 7 11 true 0 0 0 [(0x02, .vperm), (0x05, .vredsum), (0x06, .vredmin), (0x07, .vredmax), (0x08, .vfredo),
        (0x09, .vfredt), (0x0A, .vfredmin), (0x0B, .vfredmax)] = true ∧
    decodes 3 33 20 0 11 true 0 0 0 [(0x03, .vcompress), (0x04, .vexpand)] = true ∧
    decodes 3 0 20 0 15 false 0 30 0 [(0x0C, .vmvxs)] = true ∧
    decodes 3 33 0 0 15 false 0 30 0 [(0x0D, .vmvsx)] = true ∧
    decodes 3 33 11 0 2 false 0 0 0 [(0x0E, .viota)] = true ∧
    decodes 3 3 11 9 15 false 0 0 0 [(0x10, .kand), (0x11, .kor), (0x12, .kxor), (0x13, .kandn)] = true ∧
    decodes 3 3 11 0 15 false 0 0 0 [(0x14, .knot), (0x18, .kmv)] = true ∧
    decodes 3 0 11 0 4 true 0 30 0 [(0x15, .kpopc), (0x16, .kfirst)] = true ∧
    decodes 3 3 0 0 15 false 0 30 0 [(0x17, .ksetn)] = true := by decide +kernel

theorem test_decode_vlsu :
    decodes 2 33 0 0 11 true 4 30 0 [(0x00, .vld), (0x03, .vst)] = true ∧
    decodes 2 33 0 0 11 true 4 30 (17 * 2 ^ 21) [(0x01, .vlds), (0x04, .vsts)] = true ∧
    decodes 2 33 0 7 11 true 4 30 2 [(0x02, .vldx), (0x05, .vstx), (0x06, .vsxadd), (0x07, .vamoadd), (0x08, .vamomin),
        (0x09, .vamomax)] = true ∧
    decodes 2 11 0 0 15 false 4 30 0 [(0x0A, .vldk), (0x0B, .vstk)] = true := by decide +kernel

theorem test_decode_mtx :
    decodes 4 8 20 7 11 true 5 0 (47 * 2 ^ 20 + 15 * 2 ^ 16) [(0x00, .mma)] = true ∧
    decodes 4 8 20 0 15 false 5 0 (47 * 2 ^ 20 + 7 * 2 ^ 16 + 5 * 2 ^ 13 + 6 * 2 ^ 10 + 1) [(0x02, .mconv)] = true ∧
    decodes 4 0 0 0 15 false 5 0 (47 * 2 ^ 20 + 3) [(0x03, .mzero)] = true ∧
    decodes 4 33 0 0 15 false 5 0 (47 * 2 ^ 20 + 15 * 2 ^ 16) [(0x04, .mrdrow), (0x05, .mwrrow)] = true ∧
    decodes 4 33 20 7 15 false 6 0 (5 * 2 ^ 23 + 1) [(0x10, .vpconv), (0x11, .vpconva)] = true ∧
    decodes 4 33 20 0 15 false 6 0 (5 * 2 ^ 23 + 3) [(0x12, .vpack)] = true ∧
    decodes 4 33 20 0 15 false 6 0 (5 * 2 ^ 23) [(0x13, .vfext)] = true ∧
    decodes 4 0 0 0 15 false 6 30 (5 * 2 ^ 23) [(0x20, .flset), (0x21, .flget)] = true ∧
    decodes 4 0 0 0 15 false 5 30 (33 * 2 ^ 20 + 14 * 2 ^ 16) [(0x28, .pclaim)] = true ∧
    decodes 4 0 0 0 15 false 5 0 (33 * 2 ^ 20 + 14 * 2 ^ 16) [(0x29, .pfree)] = true := by decide +kernel

theorem test_decode_hash :
    decodes 5 0 0 0 15 false 7 30 (3 * 2 ^ 24) [(0x00, .hfset)] = true ∧
    decodes 5 33 0 0 15 false 7 0 (3 * 2 ^ 24 + 47 * 2 ^ 18) [(0x01, .hcode)] = true ∧
    decodes 5 33 20 7 11 true 7 30 (3 * 2 ^ 24 + 2 ^ 23 + 2 * 16 + 11) [(0x02, .hprobe)] = true ∧
    decodes 5 11 20 7 11 true 7 30 (3 * 2 ^ 24 + 33 * 2 ^ 16) [(0x03, .hins)] = true ∧
    decodes 5 11 20 7 11 true 7 30 (3 * 2 ^ 24) [(0x04, .hdel)] = true ∧
    decodes 5 0 0 0 15 false 7 30 0x8001 [(0x05, .hrehash)] = true ∧
    decodes 5 0 0 0 15 false 7 0 5 [(0x06, .hfence)] = true ∧
    decodes 5 33 0 0 15 false 7 30 0 [(0x07, .hstat)] = true := by decide +kernel

/-- A convoy of three words: the sample header, VLD under slot 0, VFMUL.VX under slot 1, VFADD under slot 2. -/
theorem test_decode_convoy :
    (decode (bytesOf 4 0xF4081000 ++ bytesOf 8 0x0020007A2C000000 ++ bytesOf 8 0x443080789C000000 ++ bytesOf 8 0x4040C2F800000000)).map (·.1) =
      some (.convoy { nMinus1 := 2, stg := false, stage := 0, slot0 := 2, slot1 := 0, slot2 := 1, slot3 := 0, slot4 := 0, slot5 := 0,
                      long := false, pri := 0 } [0x0020007A2C000000, 0x443080789C000000, 0x4040C2F800000000]) := by
  decide +kernel

/-- What is no instruction is told by name (R30). -/
theorem test_decode_refused :
    decodeWord 0xE0000000 = .nonInstructionEncoding 0xE0000000 ∧ vecInstr 0 (word 0x1F 1 2 3 15 0 0 0 0) = none ∧
    vecInstr 0 (word 0x00 1 2 3 15 0 3 0 0) = none ∧ encFault 0 (word 0x00 1 2 4 15 0 0 0 0) = true := by decide +kernel
/-! ### Small states -/

/-- The hart that the tests run: supervisor mode, traps enabled, PC 4, x[n] = n * n, VT INT with SEW 64, one cluster held, VL 4. -/
def hart : Hart :=
  { resetHart 0 with
    active := true, task := 1, pc := 4, x := (List.range 32).map (fun n => BitVec.ofNat 64 (n * n)), vl := 4, vt := 5, vlcap := 16,
    grant := 1, trap := { clearTrap with sup := true, tvec := 0x1000 } }

/-- Its core, cluster 0 released to hart 0. -/
def core : Core :=
  { resetCore 0 with held := (List.replicate 8 none).set 0 (some 0), line := (List.replicate 8 []).set 0 [0] }

/-- The machine around it, brought up as a whole (R328): its Hearths act and its ports are live. -/
def base : State := { State.reset with h := hart, core := core, dev := { resetDev with bringUp := 5, ports := 0xFFF } }

/-- The same hart with X registers set. -/
def withX (l : List (XReg × Word)) : State := l.foldl (fun s p => s.setX p.1 p.2) base

/-- The same hart under another VT, of which VLCAP follows. -/
def underVt (vt : BitVec 11) (s : State) : State :=
  s.mapH (fun h => { h with vt := vt, vlcap := BitVec.ofNat 13 (vlcapOf h.grant vt) })

/-- A vector register with elements of a width. -/
def withV (n w : Nat) (l : List Nat) (s : State) : State :=
  s.mapH (fun h => { h with v := h.v.set n (VReg.build w l.length (l.getD · 0)) })

/-- An address of the SDM through the local window. -/
def sdm (off : Nat) : Word := BitVec.ofNat 64 (localBase + off)

/-- The state after an instruction. -/
def ran (i : Instr) (s : State) : State := Machine.after s (exec i s)

/-- Elements of a register of the hart in hand. -/
def elems (s : State) (n w m : Nat) : List Nat := (List.range m).map (s.h.elem n w)

/-! ### Results that the spec's examples and tables give -/

/-- Table 5.5: the funnel shift and the field of the worked example. -/
theorem test_fshr_bextu : (ran (.fshr 7 6 5 58) (withX [(5, 0xB400000000000000), (6, 0x3253)])).h.rx 7 = 0x000C94ED ∧
    (ran (.bextu 9 7 0 13) (withX [(7, 0x000C94ED)])).h.rx 9 = 0x14ED := by decide +kernel

/-- R76: ADD wraps. -/
theorem test_add_wraps : (ran (.add 1 2 3) (withX [(2, BitVec.allOnes 64), (3, 2)])).h.rx 1 = 1 := by decide +kernel

/-- Table 5.4: the corners of division. -/
theorem test_div_corners : (ran (.div 1 2 0) base).h.rx 1 = BitVec.allOnes 64 ∧
    (ran (.div 1 2 3) (withX [(2, 0x8000000000000000), (3, BitVec.allOnes 64)])).h.rx 1 = 0x8000000000000000 ∧
    (ran (.rem 1 2 3) (withX [(2, BitVec.ofInt 64 (-7)), (3, 2)])).h.rx 1 = BitVec.allOnes 64 := by decide +kernel

/-- R82: a byte load extends its sign; R71: x0 stays zero. -/
theorem test_ldb_extends :
    let s := (withX [(5, sdm 0)]).perform .outside (cellsOf (localKey 0 2) 1 0x80)
    (ran (.ldb 6 5 2) s).h.rx 6 = 0xFFFFFFFFFFFFFF80 ∧ (ran (.ldbu 6 5 2) s).h.rx 6 = 0x80 ∧ (ran (.ldb 0 5 2) s).h.rx 0 = 0 := by
  decide +kernel

/-- R82: a store is little-endian; R83: a misaligned one traps with its address. -/
theorem test_stw_bytes :
    let s := withX [(5, sdm 8), (6, 0x11223344AABBCCDD)]
    ((List.range 6).map (fun j => (ran (.stw 6 5 0) s).readByte false (localKey 0 (8 + j)))) = [0xDD, 0xCC, 0xBB, 0xAA, 0, 0] ∧
    (ran (.stw 6 5 2) s).h.trap.ecause = 0x003 ∧ (ran (.stw 6 5 2) s).h.trap.eval = sdm 10 := by decide +kernel

/-- R88: an atomic returns the old word, sign-extended. -/
theorem test_amo_returns_old :
    let s := (withX [(5, sdm 0), (6, 7)]).perform .outside (cellsOf (localKey 0 0) 4 0xFFFFFFFE)
    (ran (.amoadd 1 5 6 .w .rlx .dev) s).h.rx 1 = 0xFFFFFFFFFFFFFFFE ∧
    (ran (.amoadd 1 5 6 .w .rlx .dev) s).mem.dword (localKey 0 0) = 5 := by decide +kernel

/-- R85, R86: a branch counts words from itself; a JAL to x1 is a call. -/
theorem test_branch_and_call : (ran (.bne 1 2 0x7FFF) base).h.pc = 0 ∧ (ran (.beq 1 2 0x7FFF) base).h.pc = 8 ∧
    (ran (.jal 1 4) base).h.pc = 20 ∧ (ran (.jal 1 4) base).h.rx 1 = 8 ∧ (ran (.jal 1 4) base).h.loops.cdepth = 1 := by decide +kernel

/-- Table 4.8: VL under e8, bsi, b32 with three clusters. -/
theorem test_vl_blocks :
    let s := fun (avl : Word) => (withX [(10, avl)]).mapCore (fun k => { k with lanedis := 0xF8 })
    (ran (.vsetvli 6 10 2 4 3 0) (s 1000)).h.rx 6 = 384 ∧ (ran (.vsetvli 6 10 2 4 3 0) (s 300)).h.rx 6 = 288 ∧
    (ran (.vsetvli 6 10 2 4 3 0) (s 20)).h.rx 6 = 20 ∧ (ran (.vsetvli 6 10 5 2 3 0) (s 20)).h.trap.ecause = 0x001 := by decide +kernel

/-- R90, R288: TRAP enters the handler with its code; ERET comes back. -/
theorem test_trap_and_return :
    let t := ran (.trap 3) base
    t.h.pc = 0x1000 ∧ t.h.trap.ecause = 0x011 ∧ t.h.trap.eval = 3 ∧ t.h.trap.epc = 4 ∧ t.h.trap.te = false ∧
    (ran .eret t).h.pc = 4 ∧ (ran .eret t).h.trap.te = true := by decide +kernel

/-- R29, R35, R146: a LOOP word with FARM set is LNEST, with body length 0 ILL before that. -/
theorem test_loop_with_farm : (ran (decodeWord 0xB0010001) base).h.trap.ecause = 0x008 ∧ (ran (decodeWord 0xB0010000) base).h.trap.ecause = 0x001 := by
  decide +kernel

/-- R75: a CSR write gives the old value; a supervisor CSR refuses user mode with PERM. -/
theorem test_csr_access :
    (ran (.csrrw 1 2 0x107) (withX [(2, 77)])).readCsr 0x107 = 77 ∧ (ran (.csrrw 1 2 0x107) (withX [(2, 77)])).h.rx 1 = 0 ∧
    (ran (.csrrw 1 2 0x107) (base.mapH (fun h => { h with trap := { h.trap with sup := false } }))).h.trap.ecause = 0x005 := by
  decide +kernel

/-- R113, R115: elements wrap at their width, VADDS clamps; the inactive element keeps its value. -/
theorem test_vadd_wraps :
    let s := withV 1 8 [9, 9, 9, 9] (withV 2 8 [255, 127, 1, 128] (withV 3 8 [1, 1, 2, 255] (underVt 2 base)))
    elems (ran (.vadd (vv 1 2 3)) s) 1 8 4 = [0, 128, 3, 127] ∧ elems (ran (.vadds (vv 1 2 3)) s) 1 8 4 = [0, 127, 3, 128] ∧
    elems (ran (.vadd (va 1 2 3 4 false 0 0 0)) s) 1 8 4 = [9, 9, 9, 9] := by decide +kernel

/-- R118: VNARROW with SAT clamps. -/
theorem test_vnarrow_sat :
    elems (ran (.vnarrow (va 1 2 0 15 false 0 0 1)) (withV 2 16 [0x0080, 0xFF7F, 5, 0x7FFF] (underVt 2 base))) 1 8 4 =
      [0x7F, 0x80, 5, 0x7F] := by decide +kernel

/-- R119, R109: binary32: 1.5 * 2.5 is exact; 1 / 3 rounds and raises NX. -/
theorem test_fp_results :
    let s := withV 2 32 [0x3FC00000, 0x3F800000] (withV 3 32 [0x40200000, 0x40400000] (underVt 20 base))
    elems (ran (.vfmul (vv 1 2 3)) s) 1 32 2 = [0x40700000, 0x40400000] ∧ (ran (.vfmul (vv 1 2 3)) s).h.fflags = 0 ∧
    (elems (ran (.vfdiv (vv 1 2 3)) s) 1 32 2)[1]? = some 0x3EAAAAAB ∧ (ran (.vfdiv (vv 1 2 3)) s).h.fflags = 17 := by decide +kernel

/-- Table 6.12: one block of BSI8: scale 0x81 and the mantissas. -/
theorem test_bsi_block :
    let x := [0x40400000, 0xBFC00000, 0x3E800000, 0, 0x40B80000, 0xC0C00000, 0x3F800000, 0x3DCCCCCD]
    let s := (withV 5 32 x (underVt 98 base)).mapH (fun h => { h with vl := 8 })
    let t := (ran (.vbscale (va 2 5 0 15 false 0 0 0)) s).mapH (fun h => { h with pc := 4 })
    elems t 2 8 1 = [0x81] ∧ elems (ran (.vbquant (va 9 5 2 15 false 0 0 0)) t) 9 8 8 = [48, 232, 4, 0, 92, 160, 16, 2] := by
  decide +kernel

/-- R140: a reduction starts from element 0 of vs2. -/
theorem test_vredsum : elems (ran (.vredsum (vv 1 2 3)) (withV 2 64 [1, 2, 3, 4] (withV 3 64 [10] base))) 1 64 1 = [20] := by decide +kernel

/-- Table 13.9: contributions added in index order: 1.0, then 2²⁴, then 1.0. -/
theorem test_contributions_in_order :
    [0x3F800000, 0x4B800000, 0x3F800000].foldl (contributionAdd 20) 0 = 0x4B800000 := by decide +kernel

/-- R191: an MMA of one row adds eight products to each column when it is applied. -/
theorem test_mma_row :
    let p : Pane := { freePane with owner := some 0, ty := .int32 }
    let v := (List.range 8).foldl (fun s k => withV (8 + k) 8 [k + 1, 1, 0, 255] s) (withV 1 8 [1, 2, 3, 4, 5, 6, 7, 8] (underVt 2 base))
    let t := ran (.mma (va 8 1 0 15 false 5 0 0)) (v.mapCore (fun k => { k with panes := k.panes.set 0 p }))
    let u := ran (.matrixUpdateApply 0 0 false) t
    (List.range 4).map (elemOf 32 ((u.core.pane 0).rows.getD 0 0)) = [204, 36, 0, 2 ^ 32 - 36] := by decide +kernel

/-- Table 17.5: the second arrival of three waits; the last completes the generation. -/
theorem test_barrier_counts :
    let s := fun (n : Nat) => base.perform .outside (cellsOf 4096 8 (7 * 2 ^ 32 + n * 2 ^ 16 + 3))
    (Machine.after base ((s 1).barMemory 0 4096)).mem.dword 4096 = 0x700020003 ∧ (Machine.after base ((s 1).barMemory 8 4096)).h.wait = .bar (some 8) 7 ∧
    (Machine.after base ((s 2).barMemory 0 4096)).mem.dword 4096 = 0x800000003 ∧ (Machine.after base ((s 2).barMemory 0 4096)).h.wait = .none := by
  decide +kernel

/-- Table 22.8: the cluster deal over dies 0 and 1, die 1 with three cores disabled. -/
theorem test_deal :
    let s := base.mapDev (fun d => { d with harvest := d.harvest.set 1 0xFFFBFFF9F })
    (dealCore (s.dealList 3 true) 50, dealCore (s.dealList 3 true) 62, dealCore (s.dealList 3 true) 127) =
      (some (512 + 23), some (512 + 3), some 23) := by decide +kernel

/-- R324: with every link but (0, 1) dead, the other dies are out of reach. -/
theorem test_unreachable : resetDev.unreachable 1 = 0x3C := by decide +kernel

/-- The first step after reset runs the word that is placed (log 11). -/
theorem test_first_step : (Machine.after base (step (State.reset.withFetchWord 32 0x10800007))).h.rx 1 = 7 := by decide +kernel


/-! ### For every obligation with hypotheses, states that meet them

A statement whose only hypothesis is a finite choice of instructions, or that has none, needs no witness: ThreeRegisterResults,
SampleWordsDecode, UpperImmediates, SynchronousCauses, TrapReturn, ResetValues and their like hold of every
state, and their inner conditions are single bits of a state. -/

/-- An answer compared. -/
def isOk {ε α : Type} [DecidableEq α] (e : Except ε α) (a : α) : Bool :=
  match e with
  | .ok b => decide (b = a)
  | .error _ => false

theorem of_isOk {ε α : Type} [DecidableEq α] {e : Except ε α} {a : α} (h : isOk e a = true) : e = .ok a := by
  cases e <;> simp_all [isOk]

/-- A refusal compared. -/
def isError {ε α : Type} [DecidableEq ε] (e : Except ε α) (x : ε) : Bool :=
  match e with
  | .error y => decide (y = x)
  | .ok _ => false

theorem of_isError {ε α : Type} [DecidableEq ε] {e : Except ε α} {x : ε} (h : isError e x = true) : e = .error x := by
  cases e <;> simp_all [isError]

/-- A machine whose next step runs the placed word ADDI x1, x0, 7. -/
def placed : State := State.reset.withFetchWord 32 0x10800007

/-- A machine whose next step pushes a convoy of one VADD V1, V2, V3. -/
def placedConvoy : State := State.reset.withFetchWord 96 (0xF0000000 + 0x000841F800000000 * 2 ^ 32)

/-- The state that a step at `s` fetches in. -/
def fetching (s : State) : State := s.tick.mapH (fun h => { h with skipping := h.skipNow, skipNow := false })

theorem witness_StepRunsDecodedInstruction :
    let t := fetching placed
    placed.agenda = [] ∧ t.dev.steps % 64 ≠ 0 ∧ t.h.runnable = true ∧ t.h.taking = none ∧
    ¬ (t.h.trap.te = true ∧ (t.h.preempt = true ∨ t.h.timer = true)) ∧ t.h.convoys = [] ∧ t.h.squeue = [] ∧ t.h.ahead = [] ∧
    t.h.wait = .none ∧ t.h.pc ≠ exitPc ∧ t.h.pc.toNat % 4 = 0 ∧ t.h.bpFind [0] t.h.pc = none ∧ t.fetchWord t.h.pc = .ok 0x10800007 ∧
    t.fetchWords (t.h.pc + 4) (vectorWords 0x10800007) = .ok [] ∧ decode (bytesOf 4 0x10800007 ++ []) = some (.addi 1 0 7, []) := by
  and_intros <;> first | exact of_isOk (by decide +kernel) | decide +kernel

theorem witness_StepRunsDecodedInstruction_convoy :
    let t := fetching placedConvoy
    placedConvoy.agenda = [] ∧ t.h.runnable = true ∧ t.h.convoys = [] ∧ t.h.squeue = [] ∧ t.h.ahead = [] ∧ t.h.wait = .none ∧
    t.fetchWord t.h.pc = .ok 0xF0000000 ∧ isHeader 0xF0000000 = true ∧ t.h.pc.toNat % 8 = 4 ∧
    t.fetchWords (t.h.pc + 4) (vectorWords 0xF0000000) = .ok [0, 0, 0, 0, 0xF8, 0x41, 0x08, 0x00] ∧
    (decode (bytesOf 4 0xF0000000 ++ [0, 0, 0, 0, 0xF8, 0x41, 0x08, 0x00])).isSome = true := by
  and_intros <;> first | exact of_isOk (by decide +kernel) | decide +kernel

/-- The next word, ADDI x1, x0, 7 at address 16, stands behind a convoy of the hart that has not retired. -/
theorem witness_StepRunsDecodedInstruction_ahead :
    let cv := newConvoy 4 16 [.vadd (vv 1 2 3)] 0
    let s : State := { (State.reset.withFetchWord 128 (0x10800007 * 2 ^ 96)).mapH (fun h => { h with convoys := [cv] }) with agenda := [.ahead 0] }
    let u := ({ s with agenda := [] }.tick).focus 0
    (match u.nextAhead with
      | some (t, i) => i == .addi 1 0 7 && (headForm t.h i).isNone && (startOf i).isNone && (scalarAccess t i).isNone
          && (match exec i t with | .next v => !t.trappedIn v && v.h.rx 1 == 7 | _ => false)
      | none => false) = true := by decide +kernel

/-- Breakpoints 2 and 5 stand at the word at the PC. -/
theorem witness_StepRunsDecodedInstruction_breakpoint :
    let s := placed.mapH (fun h => { h with skipNow := false, dba := (h.dba.set 2 4).set 5 4, dbctl := (h.dbctl.set 2 1).set 5 1 })
    let t := fetching s
    s.agenda = [] ∧ t.dev.steps % 64 ≠ 0 ∧ t.h.runnable = true ∧ t.h.taking = none ∧
    ¬ (t.h.trap.te = true ∧ (t.h.preempt = true ∨ t.h.timer = true)) ∧ t.h.convoys = [] ∧ t.h.squeue = [] ∧ t.h.ahead = [] ∧
    t.h.wait = .none ∧ t.h.pc ≠ exitPc ∧ t.h.bpMatches [0] t.h.pc 2 = true ∧ t.h.bpMatches [0] t.h.pc 5 = true ∧
    t.h.bpMatches [0] t.h.pc 0 = false ∧ t.h.bpMatches [0] t.h.pc 1 = false := by decide +kernel

theorem witness_StepRunsDecodedInstruction_event :
    ({ placed with agenda := [.event .thermalLimit] } : State).agenda = .event .thermalLimit :: [] ∧
    spontaneous .thermalLimit = true := by decide +kernel

theorem witness_WordsRoundTrip :
    (.add 8 11 7 : Instr).wf = true ∧ encode (.add 8 11 7) = some (bytesOf 4 0x042CE000) ∧
    (.nonInstructionEncoding 0xE0000000 : Instr).wf = true ∧ encode (.nonInstructionEncoding 0xE0000000) = some (bytesOf 4 0xE0000000) ∧
    (.convoy (header 0) [0x000841F800000000] : Instr).wf = true ∧
    encode (.convoy (header 0) [0x000841F800000000]) = some (bytesOf 4 0xF0000000 ++ bytesOf 8 0x000841F800000000) := by
  decide +kernel

theorem witness_VectorWordsRoundTrip :
    (.vadd (vv 1 2 47) : Instr).wf = true ∧ encodeVec (.vadd (vv 1 2 47)) = some (0, 0x000857F800000000) := by decide +kernel

theorem witness_XRegisters : (31 : XReg) ≠ 0 ∧ base.h.x.length = 32 := by decide +kernel

/-- The words of a shift whose unused bits are not zero, lowest and highest. -/
theorem witness_ImmediateResults : (64 : BitVec 14).toNat / 64 ≠ 0 ∧ (0x3FFF : BitVec 14).toNat / 64 ≠ 0 := by decide

/-- The ends of the range of LUI and ADDI. -/
theorem witness_UpperImmediates : (-(2 ^ 36) - 8192 : Int) ≤ 2 ^ 36 - 8193 := by decide

/-- Fields that just fit, and that are just too long. -/
theorem witness_BitFieldsAndFunnelShifts :
    ((63 : BitVec 6) ≠ 0 ∧ (1 : BitVec 6).toNat + (63 : BitVec 6).toNat ≤ 64) ∧ 64 < (2 : BitVec 6).toNat + (63 : BitVec 6).toNat := by
  decide

theorem witness_ComputeFrame :
    aluDest (.bins 3 4 1 63) = some 3 ∧ scalarOk (.bins 3 4 1 63) = true ∧
    exec (.bins 3 4 1 63) base = .next (ran (.bins 3 4 1 63) base) := ⟨by decide, by decide +kernel, by rfl⟩

/-- A place of the SDM of core 0. -/
def sdmPlace (off : Nat) : Place := { key := localKey 0 off, repl := false, atom := true }

/-- The state of the memory witnesses: x5 at an address of the SDM. -/
def atSdm (off : Nat) : State := withX [(5, sdm off), (6, 0x1122334455667788)]

/-- The last bytes of the SDM, and address 0 of mapped device memory. -/
def mapped : State := base.withFetchWord 32 0x10800007

/-- Does a scalar access reach a place? -/
def reaching (a : Access) (kinds : List Nat) (va : Word) (n : Nat) (p : Place) (s : State) : Bool :=
  va.toNat % n == 0 && isOk (s.scalarPlace a va) p && (s.h.bpRange kinds va n).isNone && (a == .store || !s.readAborts false p.key n)

theorem reaches_of {a : Access} {kinds : List Nat} {va : Word} {n : Nat} {p : Place} {s : State} (h : reaching a kinds va n p s = true) :
    s.reaches a kinds va n p := by
  simp only [reaching, Bool.and_eq_true, Bool.or_eq_true, beq_iff_eq, Option.isNone_iff_eq_none, Bool.not_eq_true'] at h
  exact ⟨h.1.1.1, of_isOk h.1.1.2, h.1.2, h.2.resolve_left⟩

theorem witness_LoadsReadLittleEndian :
    (atSdm 0xFFFF).reaches .load bpRead (sdm 0xFFFF) 1 (sdmPlace 0xFFFF) ∧
    (atSdm 0xFFFE).reaches .load bpRead (sdm 0xFFFE) 2 (sdmPlace 0xFFFE) ∧
    (atSdm 0xFFFC).reaches .load bpRead (sdm 0xFFFC) 4 (sdmPlace 0xFFFC) ∧
    (atSdm 0xFFF8).reaches .load bpRead (sdm 0xFFF8) 8 (sdmPlace 0xFFF8) ∧
    mapped.reaches .load bpRead 0 8 { key := devKey 0 0, repl := false, atom := true } ∧ mapped.mem.wf = true ∧ mapped.dev.lost = 0 := by
  refine ⟨reaches_of ?_, reaches_of ?_, reaches_of ?_, reaches_of ?_, reaches_of ?_, ?_⟩ <;> decide +kernel

theorem witness_StoresWriteTheirBytes :
    (atSdm 0xFFF8).reaches .store bpWrite ((atSdm 0xFFF8).h.rx 5 + (0 : BitVec 15).signExtend 64) 8 (sdmPlace 0xFFF8) ∧
    mapped.reaches .store bpWrite (mapped.h.rx 0 + (7 : BitVec 15).signExtend 64) 1 { key := devKey 0 7, repl := false, atom := true } ∧
    (atSdm 0xFFF8).h.loops.opn = false ∧ (atSdm 0xFFF8).h.closed = [] ∧ (atSdm 0xFFF8).h.ssb = [] := by
  refine ⟨reaches_of ?_, reaches_of ?_, ?_⟩ <;> decide +kernel

/-- A hart in an open strip with `n` byte stores made, each in an entry of its own. -/
def strip (n : Nat) : State :=
  (atSdm (32 * n)).mapH (fun h => { h with
    loops := { h.loops with opn := true },
    ssb := (List.range n).map (fun i => scalarStoreOf 0 0 (sdmPlace (32 * i)) 1 1) })

theorem fresh_chunks (ks l : List Nat) (h : (ks ++ l).Nodup) :
    (ks.foldl (fun l k => if k ∈ l then l else k :: l) l).length = ks.length + l.length := by
  induction ks generalizing l with
  | nil => simp
  | cons k ks ih =>
    simp only [List.cons_append, List.nodup_cons, List.mem_append, not_or] at h
    rw [List.foldl_cons, if_neg h.1.2, ih (k :: l) (by
      refine List.nodup_append.2 ⟨(List.nodup_append.1 h.2).1, List.nodup_cons.2 ⟨h.1.2, (List.nodup_append.1 h.2).2.1⟩, ?_⟩
      intro a ha b hb
      rcases List.mem_cons.1 hb with rfl | hb
      · rintro rfl
        exact h.1.1 ha
      · exact (List.nodup_append.1 h.2).2.2 a ha b hb)]
    simp only [List.length_cons]
    omega

/-- The entries that `n` byte stores in chunks of their own take. -/
theorem chunks_of_strip (n : Nat) :
    (chunksOf ((List.range n).map (fun i => scalarStoreOf 0 0 (sdmPlace (32 * i)) 1 1))).length = n := by
  have e : ((List.range n).map (fun i => scalarStoreOf 0 0 (sdmPlace (32 * i)) 1 1)).flatMap (fun st => st.cells.map (fun c => c.1 / 32))
      = (List.range n).map (fun i => 2 ^ 35 + i) := by
    rw [List.flatMap_map]
    simp only [scalarStoreOf, sdmPlace, cellsOf, localKey, List.map_cons, List.map_nil]
    induction List.range n with
    | nil => rfl
    | cons i l ih =>
      rw [List.flatMap_cons, List.map_cons, ih]
      simp only [List.cons_append, List.nil_append, List.cons.injEq, and_true]
      omega
  unfold chunksOf
  rw [e, fresh_chunks _ _ (by
    rw [List.append_nil]
    exact List.Pairwise.map _ (fun a b h e => h (by simpa using e)) (List.nodup_range (n := n)))]
  simp

theorem witness_StoresByStripState :
    (strip 1023).reaches .store bpWrite ((strip 1023).h.rx 5 + (0 : BitVec 15).signExtend 64) 1 (sdmPlace (32 * 1023)) ∧
    (strip 1024).reaches .store bpWrite ((strip 1024).h.rx 5 + (0 : BitVec 15).signExtend 64) 1 (sdmPlace (32 * 1024)) ∧
    (strip 1024).h.loops.opn = true ∧ (strip 1024).h.loops.sealed = false := by
  refine ⟨reaches_of ?_, reaches_of ?_, ?_⟩ <;> decide +kernel

/-- One store below the end of the buffer the store is kept, at its end the strip seals. -/
theorem witness_StoresByStripState_boundary :
    (chunksOf ((strip 1023).h.ssb ++ [scalarStoreOf 0 0 (sdmPlace (32 * 1023)) 1 1])).length = 1024 ∧
    (chunksOf ((strip 1024).h.ssb ++ [scalarStoreOf 0 0 (sdmPlace (32 * 1024)) 1 1])).length = 1025 := by
  have e : ∀ n, (strip n).h.ssb ++ [scalarStoreOf 0 0 (sdmPlace (32 * n)) 1 1] =
      (List.range (n + 1)).map (fun i => scalarStoreOf 0 0 (sdmPlace (32 * i)) 1 1) := by
    intro n
    rw [List.range_succ, List.map_append]
    rfl
  rw [e, e, chunks_of_strip, chunks_of_strip]
  exact ⟨rfl, rfl⟩

theorem witness_AtomicsExchangeInPlace :
    (atSdm 0xFFF8).reaches .atomic bpBoth ((atSdm 0xFFF8).h.rx 5) (amoBytes .d) (sdmPlace 0xFFF8) := reaches_of (by decide +kernel)

theorem witness_WritesReadBack : base.mem.wf = true := by decide +kernel

/-- A misaligned address, an unmapped one, one that the page forbids, one whose bytes hold an error, which the hart's own store to it replaces, one of
whose bytes a breakpoint matches, and the window's last offsets. -/
theorem witness_ScalarAddresses :
    let user := mapped.mapH (fun h => { h with trap := { h.trap with sup := false } })
    let bad := mapped.mapDev (fun d => { d with poison := [devKey 0 15] })
    scalarAccess (atSdm 2) (.ldw 1 5 1) = some (.load, sdm 3, 4) ∧ (sdm 3).toNat % 4 ≠ 0 ∧
    scalarAccess base (.std 1 0 8) = some (.store, 8, 8) ∧ base.scalarPlace .store 8 = .error .page ∧
    scalarAccess user (.amocas 1 0 0 .d .rlx .dev) = some (.atomic, 0, 8) ∧ user.scalarPlace .atomic 0 = .error .perm ∧
    scalarAccess bad (.ldd 1 0 8) = some (.load, 8, 8) ∧
    bad.scalarPlace .load 8 = .ok { key := devKey 0 8, repl := false, atom := true } ∧ bad.h.bpRange bpRead 8 8 = none ∧
    bad.readAborts false (devKey 0 8) 8 = true ∧ bad.aborts (devKey 0 8) 8 = true ∧
    (bad.mapH (fun h => { h with ssb := [scalarStoreOf 0 15 { key := devKey 0 15, repl := false, atom := true } 1 1] })).readAborts false (devKey 0 8) 8 = false ∧
    (let b := (atSdm 0xFFF8).mapH (fun h => { h with dba := h.dba.set 7 (sdm 0xFFFF), dbctl := h.dbctl.set 7 7 })
     scalarAccess b (.ldd 1 5 0) = some (.load, sdm 0xFFF8, 8) ∧ (sdm 0xFFF8).toNat % 8 = 0 ∧ isOk (b.scalarPlace .load (sdm 0xFFF8)) (sdmPlace 0xFFF8) = true ∧
       b.h.bpRange (Access.kinds .load) (sdm 0xFFF8) 8 = some (7, sdm 0xFFFF)) ∧
    (0xFFFF < 2 ^ 36 ∧ 0x3FFFFF < 2 ^ 36 ∧ 2 ^ 36 - 1 < 2 ^ 36) := by
  and_intros <;> first | exact of_isOk (by decide +kernel) | exact of_isError (by decide +kernel) | decide +kernel

/-- A hart in the body of one level, from address 4 to `lend`. -/
def looped (lend : Word) (cnt : Word) (sp : BitVec 8) (stages : Nat) (rot strip farm : Bool) (s : State) : State :=
  s.mapH (fun h => { h with loops := { (h.loops.setLevel 0
    { newLevel 0 lend cnt stages rot strip farm h.loops.cdepth 7 with sp := sp }) with lact := 1 } })

/-- A branch whose target is the LEND, one in the body, one outside, and no level active. -/
theorem witness_BranchesCompare :
    let s := looped 24 5 1 1 false false false base
    s.h.rx 3 = 9 ∧ s.h.rx 0 ≠ s.h.rx 3 ∧ s.h.loops.targetOk 24 = true ∧ s.h.loops.targetOk 20 = true ∧ s.h.loops.targetOk 28 = false ∧
    s.h.loops.targetOk 0 = false ∧ base.h.loops.lact = 0 ∧ base.h.loops.targetOk 28 = true := by decide +kernel

theorem witness_JumpsAndCalls :
    let s := looped 24 5 1 1 false false false base
    s.h.loops.targetOk (s.h.pc + BitVec.ofInt 64 (4 * (5 : BitVec 23).toInt)) = true ∧
    s.h.loops.targetOk (s.h.pc + BitVec.ofInt 64 (4 * (6 : BitVec 23).toInt)) = false ∧
    (base.h.rx 3 + BitVec.ofInt 64 (1 : BitVec 18).toInt).toNat % 4 ≠ 0 ∧
    (base.h.rx 2 + BitVec.ofInt 64 (4 : BitVec 18).toInt).toNat % 4 = 0 ∧
    s.h.loops.targetOk (s.h.rx 2 + BitVec.ofInt 64 (4 : BitVec 18).toInt) = true ∧
    s.h.loops.targetOk (s.h.rx 10 + BitVec.ofInt 64 (0 : BitVec 18).toInt) = false ∧
    ((withX [(1, 8)]).h.rx 1).toNat % 4 = 0 ∧ (withX [(1, 8)]).h.loops.here = [] ∧ s.h.loops.here ≠ [] := by decide +kernel

/-- Loops entered, skipped and refused: at three levels active a fourth may be declared, at four none. -/
theorem witness_LoopDeclarations :
    let deep := fun (n : Nat) => base.mapH (fun h => { h with loops := { (upTo n).foldl (fun l i =>
      l.setLevel i (newLevel 0 0x1000 5 1 false false false l.cdepth 7)) h.loops with lact := BitVec.ofNat 4 (2 ^ n - 1) } })
    (9 : BitVec 16) ≠ 0 ∧ base.h.loops.levels.length = 4 ∧ (deep 3).h.loops.mayDeclare true false 0x1000 = true ∧
    (deep 3).h.loops.mayDeclare false true 0x1000 = true ∧ (deep 3).h.rx 3 ≠ 0 ∧ (deep 3).h.rx 0 = 0 ∧ 0 < ((deep 3).h.rx 3).toInt ∧
    ((deep 3).h.rx 0).toInt ≤ 0 ∧ (deep 3).h.loops.mayDeclare true false 0x1004 = false ∧
    (deep 4).h.loops.mayDeclare false false 0x1000 = false ∧ (deep 4).h.loops.mayDeclare false true 0x1000 = false := by decide +kernel

theorem witness_LoopExits :
    let s := (looped 24 5 1 1 false false false base).mapH (fun h => { h with k := h.k.set 11 12 })
    (11 : BitVec 4).toNat < 12 ∧ 2 < s.h.vln ∧ (s.h.k.getD 11 0).getLsbD 2 = true ∧
    ((s.h.k.getD 11 0).getLsbD 0 = false ∧ (s.h.k.getD 11 0).getLsbD 1 = false) ∧ s.h.loops.inner.isSome = true ∧
    base.h.loops.inner = none ∧ ((upTo s.h.vln).all (fun e => (base.h.k.getD 0 0).getLsbD e == false)) = true ∧
    s.h.loops.mayPop 1 = true ∧ s.h.loops.mayPop 2 = false ∧
    (let two := s.mapH (fun h => { h with loops := { h.loops.setLevel 1 (newLevel 0 12 5 1 false false false h.loops.cdepth 7) with lact := 3 } })
     two.h.loops.mayPop 1 = true ∧ two.h.loops.here.all (fun p => two.h.loops.depth - 1 ≤ p.1 || p.2.inBody 20) = true ∧
       two.h.loops.here.any (fun p => p.1 < two.h.loops.depth - 1 && !p.2.inBody 28) = true) := by decide +kernel

/-- The last word of a body: a level that goes on, one that drains its stages, one that ends; a strip level that goes on and one that
ends; a farm that goes on and one that ends. -/
theorem witness_BackEdges :
    let ok := fun (s : State) => s.h.loops.levels.length == 4 && s.h.loops.lact == 1 &&
      (match s.h.loops.inner with
        | some (0, l) => l.inBody s.h.pc && s.h.pc + 4 == l.lend
        | _ => false)
    let farm := fun (svl : Nat) => (looped 8 0 1 1 false true true base).mapH (fun h => { h with loops := h.loops.setLevel 0 ((h.loops.level 0).withSvl svl) })
    ok (looped 8 5 1 1 true false false base) = true ∧ ok (looped 8 0 2 3 false false false base) = true ∧
    ok (looped 8 1 1 1 true false false base) = true ∧ ok (looped 8 0 1 1 false true false (withX [(7, 1)])) = true ∧
    0 < ((withX [(7, 1)]).h.rx 7).toInt ∧ ok (looped 8 0 1 1 true true false (withX [(7, 0)])) = true ∧
    ((withX [(7, 0)]).h.rx 7).toInt = 0 ∧ ok (farm 16) = true ∧ (farm 16).h.loops.inner.any (fun p => p.2.farm && 0 < p.2.svl) = true ∧
    ok (farm 0) = true ∧ (farm 0).h.loops.inner.any (fun p => p.2.farm && p.2.svl == 0) = true := by decide +kernel

theorem witness_CsrInstructions :
    csrForm base (.csrrs 1 0 0x107) = some (1, 0x107, false, base.readCsr 0x107 ||| base.h.rx 0) ∧
    csrForm (withX [(2, 77)]) (.csrrw 1 2 0x107) = some (1, 0x107, true, 77) ∧
    csrForm base (.csrrwi 1 0 0x004) = some (1, 0x004, true, 0) ∧ csrForm base (.csrrwi 1 1 0x004) = some (1, 0x004, false, 1) ∧
    (csrExists 0x107 = true ∧ csrReadOnly 0x107 = false ∧ csrSupervisor 0x107 = true ∧ csrExists 0xFFF = false ∧
      csrReadOnly 0x010 = true ∧ csrExists 0x010 = true) ∧
    (withX [(2, 77)]).writeValue 0x107 77 = .ok ((withX [(2, 77)]).mapH (fun h => { h with trap := { h.trap with escratch := 77 } })) ∧
    base.writeValue 0x007 32 = .error .ill := by
  and_intros <;> first | rfl | exact of_isOk (by decide +kernel) | exact of_isError (by decide +kernel) | decide +kernel

/-- A write of a CSR that is absent, of one that no mode may write, one that the mode may not make, one of a value that is not accepted. -/
theorem witness_CsrWritesReadBack_refused :
    let user := base.mapH (fun h => { h with trap := { h.trap with sup := false } })
    csrForm base (.csrrw 1 2 0xFFF) = some (1, 0xFFF, true, 4) ∧ csrExists 0xFFF = false ∧ base.h.trap.te = true ∧
    csrForm base (.csrrw 1 2 0x010) = some (1, 0x010, true, 4) ∧ csrReadOnly 0x010 = true ∧
    csrForm user (.csrrw 1 2 0x107) = some (1, 0x107, true, 4) ∧ user.h.trap.sup = false ∧ csrSupervisor 0x107 = true ∧
    csrForm (withX [(2, 32)]) (.csrrw 1 2 0x007) = some (1, 0x007, true, 32) ∧ (withX [(2, 32)]).writeValue 0x007 32 = .error .ill ∧
    (chunksOf base.h.ssb).length ≤ 1024 ∧ (0x301 : BitVec 12).toNat = 0x301 := by
  and_intros <;> first | rfl | exact of_isError (by decide +kernel) | decide +kernel

theorem witness_CsrWritesReadBack :
    base.h.shaped = true ∧
    base.csrWrite 0x107 77 = .ok (base.mapH (fun h => { h with trap := { h.trap with escratch := 77 } })) ∧
    base.csrWrite 0x000 5000 = .ok (base.mapH (fun h => { h with vl := 16 })) := by
  and_intros <;> first | exact of_isOk (by decide +kernel) | decide +kernel

/-- The largest and smallest values that each write accepts. -/
theorem witness_CsrWriteEvents :
    base.h.trap.sup = true ∧ vtConsistent 5 = true ∧ vtConsistent 98 = true ∧
    ((0xFFD : Word).toNat < 2 ^ 12 ∧ (0xFFD : Word).getLsbD 2 = true ∧ (0xFFD : Word).toNat % 4 ≠ 0) ∧ ((0x3 : Word).getLsbD 2 = false ∧ (0x3 : Word).toNat / 8 = 0) ∧
    (47 : BitVec 6).toNat < 48 ∧ (8192 : Word).toNat ≤ 8192 ∧ (0x3FFFF : Word).toNat < 2 ^ 18 ∧ (31 : Word).toNat < 32 ∧
    (base.shadowData + 10 * 2 ^ 56) / 2 ^ 56 ≤ 10 ∧ (1 : Word).toNat < 2 ∧ (15 : Word).toNat < 16 ∧
    base.csrAccess (0x107 : BitVec 12).toNat true = none := by decide +kernel

theorem witness_CsrWriteEvents_loops :
    base.h.loops.writeCsr (0x020 - 0x020) 1 = .ok { base.h.loops with lact := 1 } ∧
    base.h.shadow.writeCsr (0x134 - 0x120) 5 = .ok { base.h.shadow with stripck := 5 } := ⟨of_isOk (by decide +kernel), of_isOk (by decide +kernel)⟩

theorem witness_TrapEntryEffect :
    let i : TrapInfo := { cause := .data, bp := 7, epc := 4, eval := 0, eelem := 8191, elane := 31 }
    i.bp < 8 ∧ i.eelem < 8192 ∧ i.elane < 32 := by decide

/-- The base state waiting. -/
def waiting (w : Wait) : State := base.mapH (fun h => { h with wait := w })

/-- The counter of `time` and the event bit set. -/
def atTime (n : Nat) (s : State) : State := s.mapDev (fun d => { d with time := n })

/-- A snapshot held, one on its way, none; a fence that may complete, and ones that a stream and a matrix update hold. -/
theorem witness_OrderingInstructions :
    let missed := fun (s : State) => s.dev.snapHeld || s.dev.snapshot.isSome
    let streams := base.setStream 1 (some ((base.newStream 0 (wq 1 3 5 0 0)).ranged))
    let updates := base.mapH (fun h => { h with mq := [{ pane := 3, rows := 3, bytes := 0, kind := .mzero }] })
    missed base = false ∧ missed (base.mapDev (fun d => { d with snapHeld := true })) = true ∧
    missed (base.mapDev (fun d => { d with snapshot := some 64 })) = true ∧ base.mem.wf = true ∧
    (upTo 6).all (fun d => !base.poisoned (windowKey d 0x10080) 4) = true ∧
    (base.mapDev (fun d => { d with snapHeld := true, poison := [windowKey 5 0x10083] })).poisoned (windowKey 5 0x10080) 4 = true ∧
    ([.sv, .vs, .vv, .all] : List FenceKind).all base.seal.h.fenceReady = true ∧ streams.seal.h.fenceReady .vv = false ∧
    updates.seal.h.fenceReady .all = false ∧ updates.seal.h.fenceReady .vv = true := by decide +kernel

theorem witness_WaitsAndReleases :
    (atSdm 64).scalarPlace .load (BitVec.ofNat 64 (((atSdm 64).h.rx 5).toNat / 64 * 64)) = .ok (sdmPlace 64) ∧
    (atSdm 64).h.bpRange bpRead (BitVec.ofNat 64 (((atSdm 64).h.rx 5).toNat / 64 * 64)) 64 = none ∧
    (atSdm 64).readAborts false (sdmPlace 64).key 64 = false ∧ (atSdm 64).h.event = false ∧ ((atSdm 64).mapH (fun h => { h with event := true })).h.event = true ∧
    (waiting (.wfe 0)).h.wait = .wfe 0 ∧ 0 + 65536 ≤ (atTime 65536 (waiting (.wfe 0))).dev.time ∧
    (atTime 65535 (waiting (.wfe 0))).dev.time < 0 + 65536 ∧ (waiting .ordered).h.wait = .ordered ∧ (waiting .ordered).h.convoys = [] ∧
    (waiting .ordered).h.squeue = [] ∧ (waiting (.fence .all)).h.wait = .fence .all ∧ (waiting (.fence .all)).h.fenceReady .all = true := by
  and_intros <;> first | exact of_isOk (by decide +kernel) | decide +kernel

/-- A counter at address 8 of mapped memory: 3 expected, `n` arrived, generation `g`. -/
def counter (n g : Nat) : State :=
  (mapped.setX 5 64).perform .outside (cellsOf (devKey 0 64) 8 (g * 2 ^ 32 + n * 2 ^ 16 + 3))

/-- The order that a BAR at the counter makes, then the counter as it finds it. -/
def atCounter (n : Nat) : State :=
  let o := (counter n 7).seal.order true true
  (o.entered (o.h.rx 5)).beforeHome (.scalar o.h.id) (devKey 0 64) 8

theorem witness_Barriers :
    let o := (counter 1 7).seal.order true true
    let cnt := fun (n : Nat) => (atCounter n).mem.dword (devKey 0 64)
    let two := { base with harts := base.harts ++ [{ hart with id := 1 }] }
    (counter 1 7).seal.h.fenceReady .all = true ∧ ((counter 1 7).h.rx 5).toNat % 8 = 0 ∧ ((counter 1 7).h.rx 5).toNat < localBase ∧
    o.translate .atomic ((counter 1 7).h.rx 5) = .ok { key := devKey 0 64, repl := false, atom := true } ∧
    (counter 1 7).h.bpRange bpBoth ((counter 1 7).h.rx 5) 8 = none ∧ o.readAborts false (devKey 0 64) 8 = false ∧ field (cnt 1) 16 16 + 1 < field (cnt 1) 0 16 ∧ field (cnt 2) 16 16 + 1 = field (cnt 2) 0 16 ∧
    field (cnt 3) 0 16 ≤ field (cnt 3) 16 16 ∧ o.groupHarts.length = 1 ∧ o.groupHarts.length ≤ o.coreBar.arrived + 1 ∧
    o.coreBar.gen + 1 < 2 ^ 32 ∧ (two.seal.order true true).coreBar.arrived + 1 < (two.seal.order true true).groupHarts.length ∧
    (waiting (.bar none 1)).coreBar.gen ≠ 1 := by
  and_intros <;> first | exact of_isOk (by decide +kernel) | decide +kernel

/-- A hart that waits on the counter at 64: as it stands, for a user without rights there, on a page that is no ATOM page, with an error in it, where no
page is, and in a context that has none or whose entry holds an error. -/
theorem witness_Barriers_waiting :
    let at64 := fun (s : State) => s.mapH (fun h => { h with wait := .bar (some 64) 7 })
    let s := at64 (counter 1 7)
    let plain := (counter 1 7).perform .outside (cellsOf (devKey 0 0x400000) 8 0x1F)
    let user := s.mapH (fun h => { h with trap := { h.trap with sup := false } })
    let bad := s.mapDev (fun d => { d with poison := [devKey 0 71] })
    s.h.wait = .bar (some 64) 7 ∧ s.translate .atomic 64 = .ok { key := devKey 0 64, repl := false, atom := true } ∧
    s.aborts (devKey 0 64) 8 = false ∧ field (s.mem.dword (devKey 0 64)) 32 32 = 7 ∧
    field ((at64 (counter 1 8)).mem.dword (devKey 0 64)) 32 32 ≠ 7 ∧ bad.aborts (devKey 0 64) 8 = true ∧
    isOk (plain.translate .atomic 64) { key := devKey 0 64, repl := false, atom := false } = true ∧
    isError (user.translate .atomic 64) .perm = true ∧ isError ((at64 base).translate .atomic 64) .page = true ∧
    isError ((s.mapDev (fun d => { d with poison := [windowKey 0 0x20000] })).translate .atomic 64) .abort = true := by
  and_intros <;> first | exact of_isOk (by decide +kernel) | decide +kernel

/-- A strip head: VT of e64 in a strip level at address 4. -/
def stripHead (farm : Bool) : State := looped 24 0 1 1 false true farm (withX [(7, sdm 64), (8, 5), (9, 1000)])

theorem witness_SettingTheVectorLength :
    vtConsistent 5 = true ∧ vtConsistent 7 = false ∧ base.h.loops.stripLevel = none ∧
    (match (stripHead false).h.loops.stripLevel with | some (_, l) => l.farm == false | none => false) = true ∧
    (stripHead false).h.loops.levels.length = 4 := by decide +kernel

/-- Checkpoints of a strip and of a farm, to be rewound to: X7, the strip's register, and X9, which STRIPCK names, have been written since. -/
theorem witness_SettingTheVectorLength_rewind :
    let named := (stripHead false).mapH (fun h => { h with loops := { h.loops with stripck := 9 } })
    let t := ((ran (.vsetvl 6 9 8) named).setX 7 1).setX 9 2
    t.h.x.length = 32 ∧ (t.h.ckpt.any (fun c => c.loops.levels.length == 4 && c.claim == none && c.xs.contains (9, 1000) && c.xs.contains (7, sdm 64)
      && c.xs.all (fun p => p.1 == 7 || p.1 == 9) && c.xs.length == 2)) = true ∧
    ((t.rewind true).h.rx 9 = 1000 ∧ (t.rewind true).h.rx 7 = sdm 64 ∧ (t.rewind true).h.loops.replay = true ∧ (t.rewind true).h.pc = 4) ∧
    (let f := ran (.vsetvl 6 9 8) ((stripHead true).perform .outside (cellsOf (localKey 0 64) 8 40 ++ cellsOf (localKey 0 72) 8 50))
     f.h.ckpt.any (fun c => c.claim == some (40, 10) && (match c.loops.active.find? (fun p => p.2.strip) with
       | some (n, l) => n == 0 && l.xreg == 7
       | none => false)) = true) := by decide +kernel

/-- A claim of a farm: `next` is 40 and `total` 50. -/
def farmed : State :=
  (stripHead true).perform .outside (cellsOf (localKey 0 64) 8 40 ++ cellsOf (localKey 0 72) 8 50)

theorem witness_FarmClaims :
    let u := (farmed.enteredScalar (farmed.h.rx 7)).enteredScalar (farmed.h.rx 7 + 8)
    vtConsistent (farmed.h.rx 8) = true ∧ vtConsistent 5 = true ∧
    (match farmed.h.loops.stripLevel with | some (_, l) => l.farm | none => false) = true ∧ farmed.h.loops.replay = false ∧
    (let s1 := farmed.closeStrip.regrant.setVt ((farmed.h.rx 8).setWidth 11)
     match s1.farmClaim [] (farmed.h.loops.level 0) with | .ok (_, b, c) => b == 40 && c == 10 | .error _ => false) = true ∧
    (let bad := farmed.setX 7 (sdm 65)
     let s1 := bad.closeStrip.regrant.setVt ((bad.h.rx 8).setWidth 11)
     match s1.farmClaim [] (bad.h.loops.level 0) with | .ok _ => false | .error _ => true) = true ∧
    (farmed.h.rx 7).toNat % 8 = 0 ∧ u.scalarPlace .atomic (farmed.h.rx 7) = .ok (sdmPlace 64) ∧
    u.scalarPlace .load (farmed.h.rx 7 + 8) = .ok (sdmPlace 72) ∧ farmed.h.bpRange bpBoth (farmed.h.rx 7) 8 = none ∧
    farmed.h.bpRange bpRead (farmed.h.rx 7 + 8) 8 = none ∧ farmed.readAborts false (sdmPlace 64).key 8 = false ∧
    farmed.readAborts false (sdmPlace 72).key 8 = false ∧ farmed.h.closed = [] ∧ farmed.dev.writes = [] ∧ farmed.h.ssb = [] ∧
    farmed.mem.wf = true ∧ (sdmPlace 72).key = (sdmPlace 64).key + 8 := by
  and_intros <;> first | exact of_isOk (by decide +kernel) | decide +kernel

/-- A head ahead of unfinished work that has claimed 16 numbers from 40 on, and the hart when it has been discarded. -/
theorem witness_FarmClaims_kept :
    let e : Ahead := { pc := 16, word := .vsetvl 6 9 8, kind := .head 1 (some (40, 16)) (some (sdm 64)) }
    let h := { farmed.h with ahead := [e] }
    e ∈ h.ahead ∧ h.dropAhead.keptClaim (h.rx 7) = some { ctxid := 0, desc := sdm 64, base := 40, count := 16 } ∧
    h.loops.replay = false ∧ (h.loops.level 0).lcnt = 0 ∧ (h.loops.level 0).xreg = 7 := by decide +kernel

/-! #### Tiles and streams -/

/-- Tile `n` of the core in hand, its own group's, of two KiB. -/
def tiled (n : Nat) (st : TileState) (s : State) : State :=
  s.mapCore (fun k => { k with tiles := k.tiles.set n { freeTile with alloc := true, state := st, len := 2, task := 1 } })

theorem witness_TileInstructions :
    let s := tiled 3 .empty (withX [(5, 2046), (6, 2), (7, 255), (8, 1)])
    s.h.convoys = [] ∧ s.h.squeue = [] ∧ wqFieldsOk (.talloc (wq 0 4 5 6 0)) = true ∧ (s.h.rx 6).toNat ≠ 0 ∧
    (s.h.rx 5).toNat + (s.h.rx 6).toNat ≤ 2048 ∧ (s.tile 4).alloc = false ∧ s.core.overlapsTile 2046 2 = false ∧
    wqFieldsOk (.tfree (wq 0 3 0 0 0)) = true ∧ s.foreign (s.tile 3) = false ∧ (s.tile 3).alloc = true ∧ (s.tile 3).state = .empty ∧
    ((tiled 3 .ready base).tile 3).state = .ready ∧ (tiled 3 .ready base).tileUses (base.h.id / 4) 3 = 0 ∧
    wqFieldsOk (.tstat (wq 0 3 9 0 0)) = true ∧ wqFieldsOk (.tset (wq 0 3 0 0 1)) = true ∧
    (wqFieldsOk (.tred (wq 0 3 7 0 0)) = true ∧ 1 ≤ (s.h.rx 7).toNat ∧ (s.h.rx 7).toNat ≤ 255 ∧ 1 ≤ (s.h.rx 8).toNat) ∧
    s.h.foldPending 3 = false ∧ (s.setStream 2 (some (s.newStream 3 (wq 2 3 5 0 0)))).h.foldPending 3 = true ∧
    s.foreign { s.tile 3 with owner := 1 } = true ∧ ((s.h.rx 0).toNat = 0 ∧ 2048 < (s.h.rx 5).toNat + (s.h.rx 7).toNat) ∧
    (s.tile 3).alloc = true ∧ s.core.overlapsTile 0 2 = true := by decide +kernel

/-- Refusals of tile words, and a TFREE of a tile that a QRED has still to read. -/
theorem witness_TileInstructions_refused :
    (let s := tiled 3 .ready base
     let u := s.setStream 2 (some (s.newStream 2 (wq 2 3 5 0 0)))
     wqFieldsOk (.tfree (wq 0 3 0 0 0)) = true ∧ u.h.convoys = [] ∧ u.h.squeue = [] ∧ u.foreign (u.tile 3) = false ∧ (u.tile 3).alloc = true ∧
       (u.tile 3).state = .ready ∧ u.tileUses (u.h.id / 4) 3 ≠ 0) ∧
    ([.talloc (wq 1 3 5 6 0), .tfree (wq 0 3 1 0 0), .tstat (wq 0 3 9 0 1), .tset (wq 0 3 0 0 0), .tred (wq 0 3 7 1 0)] : List Instr).all (fun i => !wqFieldsOk i) = true ∧
    ((base.h.rx 0).toNat = 0 ∧ 255 < (base.h.rx 16).toNat) ∧ (base.tile 3).alloc = false ∧ base.foreign (base.tile 3) = false ∧
    ((tiled 3 .filling base).tile 3).state = .filling ∧ ((tiled 3 .draining base).tile 3).state = .draining ∧
    ((tiled 3 .ready base).tile 3).state ≠ .empty := by decide +kernel

/-- The state of the stream witnesses: mapped memory, VT e64 INT, VL 4, tile 3 as asked, x5 = 64, x6 = 0 (tile 0 of core 0). -/
def streaming (st : TileState) : State := ((tiled 3 st mapped).setX 5 64).setX 6 0

/-- The stream of a start at handle 1. -/
def started (kind : BitVec 5) (st : TileState) : Stream := ((streaming st).newStream kind (wq 1 3 5 0 0)).ranged

theorem witness_StreamStarts :
    (streaming .empty).h.convoys = [] ∧ (streaming .empty).h.squeue = [] ∧
    wqFieldsOk (.qld (wq 1 3 5 0 0)) = true ∧ (streaming .empty).streamVt (.qld (wq 1 3 5 0 0)) = true ∧
    wqFieldsOk (.qst (wq 1 3 5 0 0)) = true ∧ (streaming .ready).streamVt (.qst (wq 1 3 5 0 0)) = true ∧
    wqFieldsOk (.qfold (wq 1 3 5 0 0)) = true ∧ (streaming .ready).streamVt (.qfold (wq 1 3 5 0 0)) = true ∧
    (streaming .empty).h.stream 1 = none ∧ (streaming .empty).foreign ((streaming .empty).tile 3) = false ∧
    (streaming .empty).h.conflicts (started 0 .empty) = false ∧
    (streaming .empty).streamFault (started 0 .empty) ((streaming .empty).tile 3) = none ∧ (started 0 .empty).total ≠ 0 ∧
    (streaming .ready).streamFault (started 1 .ready) ((streaming .ready).tile 3) = none ∧
    (streaming .ready).tileUses ((streaming .ready).h.id / 4) 3 = 0 ∧
    (streaming .ready).streamFault (started 3 .ready) ((streaming .ready).tile 3) = none := by decide +kernel

/-- The other kinds, VL = 0, a busy handle and a conflict. -/
theorem witness_StreamStarts_others :
    (let s := streaming .ready
     let q := (s.newStream 2 (wq 1 3 6 7 0)).ranged
     wqFieldsOk (.qred (wq 1 3 6 7 0)) = true ∧ s.streamVt (.qred (wq 1 3 6 7 0)) = true ∧ s.destOk q = true ∧
       s.streamFault q (s.tile 3) = none) ∧
    (let s := streaming .empty
     let q := (s.newStream 4 (wq 1 0 5 0 0)).ranged
     wqFieldsOk (.qnvm (wq 1 0 5 0 0)) = true ∧ s.streamVt (.qnvm (wq 1 0 5 0 0)) = true ∧ s.streamFault q (s.tile 3) = none) ∧
    ((streaming .empty).mapH (fun h => { h with vl := 0 })).h.vln = 0 ∧
    (let s := (streaming .empty).setStream 2 (some (started 1 .ready))
     s.h.stream 2 ≠ none ∧ s.h.stream 1 = none ∧ s.h.conflicts (started 0 .empty) = true) := by decide +kernel

/-- A QST that waits for a QRED to read its tile, a QRED that waits for a QFOLD to be applied there. -/
theorem witness_StreamStarts_waits :
    (let s := (streaming .ready).setStream 2 (some (started 2 .ready))
     s.h.conflicts (started 1 .ready) = false ∧ s.h.stream 1 = none ∧ s.foreign (s.tile 3) = false ∧ s.tileUses (s.h.id / 4) 3 ≠ 0) ∧
    (let s := (streaming .ready).setStream 2 (some (started 3 .ready))
     s.h.conflicts (started 2 .ready) = false ∧ s.destOk (started 2 .ready) = true ∧ (started 2 .ready).namesTile = true ∧
       s.h.foldPending 3 = true ∧ s.tileUses (s.h.id / 4) 3 = 0 ∧ (s.h.foldPending 4 = false)) := by decide +kernel

/-- A stream of handle 1 with some elements finished. -/
def running (n : Nat) (status : BitVec 8) : State :=
  let q := started 0 .empty
  (streaming .filling).setStream 1 (some { q with n := n, status := status, complete := n == q.total })

theorem witness_StreamQueries :
    ((running 2 0).h.stream 1).isSome = true ∧ wqFieldsOk (.qwait (wq 1 0 5 0 0)) = true ∧ wqFieldsOk (.qavail (wq 1 0 5 0 0)) = true ∧
    wqFieldsOk (.qclose (wq 1 0 0 0 0)) = true ∧ ((running 2 0).h.rx 2).toNat = 4 ∧ ((running 2 0).h.rx 1).toNat = 1 ∧
    (let st := fun (s : State) => ((s.h.stream 1).map (fun q => (q.status, q.complete, q.n)))
     st (running 2 0) = some (0, false, 2) ∧ st (running 4 0) = some (0, true, 4) ∧ st (running 2 7) = some (7, false, 2)) ∧
    ((running 2 0).mapH (fun h => { h with wait := .qwait 1 2 })).h.wait = .qwait 1 2 ∧
    ((running 4 0).mapH (fun h => { h with wait := .qclose 1 })).h.wait = .qclose 1 := by decide +kernel

/-- A saved record at address 64, for a restore. -/
def saved : State :=
  (streaming .filling).perform .outside (cellsOf (devKey 0 64) 32 { started 0 .empty with n := 2 }.record)

theorem witness_StreamSaveAndRestore :
    let place : Place := { key := devKey 0 64, repl := false, atom := true }
    let r := ((saved.seal.flushClosed.atHome.enteredScalar (saved.h.rx 5)).streamReads 32 [devKey 0 64]).2.headD 0
    let q := saved.streamOfRecord r
    wqFieldsOk (.qsave (wq 1 0 5 0 0)) = true ∧ wqFieldsOk (.qrest (wq 1 0 5 0 0)) = true ∧ (running 2 0).h.trap.sup = true ∧
    (running 2 0).h.stream 1 = some { started 0 .empty with n := 2 } ∧ isOk ((running 2 0).recordPlace .store ((running 2 0).h.rx 5)) place = true ∧
    saved.h.stream 1 = none ∧ isOk (saved.recordPlace .load (saved.h.rx 5)) place = true ∧ r / 2 ^ 29 % 2 = 1 ∧ r % 2 ^ 29 = 0 ∧
    q.kind.toNat ≤ 4 ∧ q.namesTile = true ∧ saved.foreign (saved.tile q.tn) = false ∧ (saved.tile q.tn).alloc = true ∧
    (saved.tile q.tn).state = leftState q.kind ∧ saved.h.conflicts (if q.running then q.ranged else q) = false ∧ q.total < 2 ^ 32 ∧
    q.n < 2 ^ 32 ∧ ((running 2 0).mapH (fun h => { h with trap := { h.trap with sup := false } })).h.trap.sup = false := by decide +kernel

/-- A record whose bytes another stream reads or writes, one whose stream meets another, one that a contribution sent holds back. -/
theorem witness_StreamSaveAndRestore_waits :
    let busy := (running 2 0).setStream 2 (some (started 0 .empty))
    let written := saved.setStream 2 (some { started 1 .ready with writes := [(64, 96)] })
    let far := ((streaming .filling).perform .outside (cellsOf (devKey 0 64) 32 { started 0 .empty with xa := 512, n := 2 }.record)).setStream 2
      (some { started 1 .ready with xa := 512, writes := [(512, 544)] })
    let r := ((far.seal.flushClosed.atHome.enteredScalar (far.h.rx 5)).streamReads 32 [devKey 0 64]).2.headD 0
    (busy.setStream 1 none).recordWaits true (busy.h.rx 5) = true ∧ ((running 2 0).setStream 1 none).recordWaits true ((running 2 0).h.rx 5) = false ∧
    written.h.stream 1 = none ∧ written.recordWaits false (written.h.rx 5) = true ∧ saved.recordWaits false (saved.h.rx 5) = false ∧
    far.recordWaits false (far.h.rx 5) = false ∧ (far.streamOfRecord r).running = true ∧ far.h.conflicts (far.streamOfRecord r).ranged = true ∧
    saved.migrationMeets (saved.streamOfRecord r).ranged = false := by decide +kernel

/-- A stream of a kind at handle 1, none of its elements moved. -/
def flowing (q : Stream) (st : TileState) : State := (streaming st).setStream 1 (some q)

/-- A QRED of handle 1 to tile 4 of core 0, which waits for three contributions. -/
def reducing (sent : Bool) : State :=
  let q := { started 2 .ready with xa := 4, xb := 2, sent := sent, held := [1, 2, 3, 4] }
  (flowing q .ready).mapCore (fun k => { k with tiles := k.tiles.set 4 { freeTile with
    alloc := true, state := .filling, base := 2, len := 1, task := 1, expected := 3 } })

/-- The word that waits in the queue, one that waits for the uses of its tile, the last element of a load and of a store, an element that is
not mapped. -/
theorem witness_StreamEvents :
    let waits := fun (i : Instr) => (streaming .ready).mapH (fun h => { h with squeue := [{ pc := 0, word := i }] })
    let starts := fun (i : Instr) (s : State) => s.h.convoys.isEmpty && (match startOf i with
      | some f => (match f (s.mapH (fun h => { h with squeue := [] })) with | .go _ => true | _ => false)
      | none => false)
    let place : Place := { key := devKey 0 (64 + 3 * 8), repl := false, atom := true }
    starts (.talloc (wq 0 9 2 3 0)) (waits (.talloc (wq 0 9 2 3 0))) = true ∧
    starts (.tfree (wq 0 3 0 0 0)) (waits (.tfree (wq 0 3 0 0 0))) = true ∧
    (waits (.tfree (wq 0 3 0 0 0))).tileUses 0 3 = 0 ∧
    (let s := flowing (started 0 .empty) .filling
     let q := started 0 .empty
     s.h.stream 1 = some q ∧ q.running = true ∧ q.n ≤ 3 ∧ 3 < q.total ∧ q.arrived.contains 3 = false ∧ q.cv = 0 ∧
       isOk ((s.streamReady q (q.arrivals 3)).elementPlace q .load (q.address 3) 8) place = true ∧ s.mayFail q 3 = true) ∧
    (let s := flowing (started 1 .ready) .draining
     let q := started 1 .ready
     let u := s.streamReady q (q.arrivals 3)
     s.h.stream 1 = some q ∧ q.running = true ∧ q.shadowed 3 = false ∧ isOk (u.elementPlace q .store (q.address 3) 8) place = true ∧
       u.aborts (localKey 0 (0x200000 + 1024 * (s.tile q.tn).base) + 24) 8 = false) ∧
    (let q := { started 0 .empty with xa := 2 ^ 30 }
     let s := flowing q .filling
     s.h.stream 1 = some q ∧ isError ((s.streamReady q (q.arrivals 0)).elementPlace q .load (q.address 0) 8) .page = true ∧
       s.mayFail q 1 = true) := by decide +kernel

/-- Element 3 of a store on its way to die 0, whose memory is there or lost; one that an element of higher index hides; an error in the tile. -/
theorem witness_StreamEvents_moving :
    let m : Moving := { elems := [3], first := 0, count := 1, dies := [0] }
    let q := { started 1 .ready with moving := [m] }
    let s := flowing q .draining
    let u := s.streamReady q (q.arrivals 2)
    let gone := s.mapDev (fun d => { d with lost := 1 })
    let same := { started 1 .ready with xb := 0, moving := [m] }
    s.h.stream 1 = some q ∧ q.running = true ∧ q.n ≤ 3 ∧ 3 < q.total ∧ q.moving.find? (fun m => m.elems.contains 3) = some m ∧
    q.moving.find? (fun m => m.elems.contains 2) = none ∧ s.dev.lost.getLsbD 0 = false ∧ gone.dev.lost.getLsbD 0 = true ∧
    (u.writePlace q.ctxid 80 { key := devKey 0 80, repl := false, atom := true } 8 7).dev.nextWrite ≠ u.dev.nextWrite ∧
    (2 < 3 ∧ same.address 3 = same.address 2 ∧ same.shadowed 2 = true) ∧ q.address 3 ≠ q.address 2 ∧
    (let k := localKey 0 (0x200000 + 1024 * (s.tile q.tn).base)
     (u.mapDev (fun d => { d with poison := [k + 16] })).aborts (k + 2 * 8) 8 = true) := by decide +kernel

/-- A converting load and store of one block of BSI8, and a block of a storage target that the group may use, to a tile and to memory. -/
theorem witness_StreamEvents_others :
    (let q := fun (kind : BitVec 5) => { started kind .empty with vt := 98, mode := 2, total := 8, xb := 1024 }
     let at' := fun (n : Nat) => ({ key := devKey 0 n, repl := false, atom := true } : Place)
     let ok := fun (kind : BitVec 5) (a : Access) =>
       let s := flowing (q kind) .filling
       let u := s.streamReady (q kind) ((q kind).arrivals 0)
       (q kind).cv != 0 && (q kind).block 0 == List.range 8 && isOk (u.elementPlace (q kind) a ((q kind).scaleAddress 0) 1) (at' 1024)
         && isOk (u.streamPlaces (q kind) a (q kind).deviceWidth (((q kind).block 0).map (q kind).address)) ((List.range 8).map (fun e => at' (64 + e)))
         && (List.range 8).all (fun i => !u.aborts (localKey 0 0x200000 + 4 * i) 4)
     ok 0 .load = true ∧ ok 1 .store = true) ∧
    (let q := fun (mode : BitVec 3) => { started 4 .empty with mode := mode, xa := 0, xb := 4096, total := 1 }
     let s := fun (mode : BitVec 3) => (flowing (q mode) .filling).perform .outside
       (cellsOf (windowKey 0 0x50000) 8 1 ++ cellsOf (windowKey 0 0x50028) 8 4096)
     let u := fun (mode : BitVec 3) => (s mode).streamReady (q mode) ((q mode).arrivals 0)
     (u 1).targetOk (q 1) = true ∧ (u 1).poisoned (windowKey 0 0x50000) 64 = false ∧
       ((s 1).mapDev (fun d => { d with poison := [windowKey 0 0x5003F] })).poisoned (windowKey (dieOfHart 0) (0x50000 + 64 * field (q 1).xa 48 8)) 64 = true ∧
       (flowing (q 1) .filling).targetOk (q 1) = false ∧ (s 1).dev.ports ≠ 0 ∧
       ((s 1).mapDev (fun d => { d with ports := 0 })).targetOk (q 1) = true ∧ (u 0).targetOk (q 0) = true ∧
       isOk ((u 0).elementPlace (q 0) .store ((q 0).address 0) 4096) { key := devKey 0 4096, repl := false, atom := true } = true) := by
  decide +kernel

theorem witness_StreamEvents_reductions :
    (let s := reducing false
     let q := started 2 .ready
     let k := localKey 0 (0x200000 + 1024 * (s.tile q.tn).base)
     s.aborts k (q.total * q.deviceWidth) = false ∧ (s.mapDev (fun d => { d with poison := [k + 31] })).aborts k (q.total * q.deviceWidth) = true) ∧
    (∀ sent, (reducing sent).h.stream 1 = some { started 2 .ready with xa := 4, xb := 2, sent := sent, held := [1, 2, 3, 4] }) ∧
    (let q := { started 2 .ready with xa := 4, xb := 2, sent := true, held := [1, 2, 3, 4] }
     let t := (reducing true).tileOf q.destCore q.destTile
     q.running = true ∧ t.alloc = true ∧ t.state = .filling ∧ t.bound = false ∧ t.expected ≠ 0 ∧
       q.total * q.deviceWidth ≤ 1024 * t.len ∧ t.buffer = [] ∧ q.xb.toNat < t.expected ∧ t.next ≤ q.xb.toNat ∧ q.xb.toNat < t.next + 4) ∧
    (let q := started 3 .ready
     let s := flowing q .ready
     s.h.stream 1 = some q ∧ q.running = true ∧ s.firstFold q = true ∧
       (let u := s.streamReady q ((List.range q.total).map (fun e => (q.address e, q.deviceWidth)))
        isOk (u.streamPlaces q .load q.deviceWidth ((List.range q.total).map q.address)) ((List.range q.total).map (fun e =>
          { key := devKey 0 (64 + e * q.deviceWidth), repl := false, atom := true })) = true ∧
          u.aborts (localKey 0 (0x200000 + 1024 * (s.tile q.tn).base)) q.deviceWidth = false)) := by decide +kernel

/-- The next element, one out of order, the last. -/
theorem witness_StreamProgress :
    (let s := flowing (started 0 .empty) .filling
     1 < s.h.streams.length ∧ (started 0 .empty).n ≤ 0 ∧ 0 < (started 0 .empty).total ∧ 3 < (started 0 .empty).total ∧
       (started 0 .empty).complete = false) ∧
    (let c : Contribution := { hart := 0, handle := 1, index := 0, vt := 5, data := [1, 2, 3, 4] }
     let s := (reducing true).mapCore (fun k => { k with tiles := k.tiles.set 4 { freeTile with
       alloc := true, state := .filling, base := 2, len := 1, task := 1, expected := 1, buffer := [c] } })
     let k := localKey 0 (0x200000 + 1024 * (s.tileOf 0 4).base)
     (s.tileOf 0 4).buffer.find? (fun c => c.index == (s.tileOf 0 4).next) = some c ∧ s.aborts k (vtSew c.vt / 8 * c.data.length) = false ∧
       (s.mapDev (fun d => { d with poison := [k + 31] })).aborts k (vtSew c.vt / 8 * c.data.length) = true) := by decide +kernel

/-! #### Vector instructions -/

/-- Every instruction of the list is ready in the state. -/
def allReady (l : List Instr) (s : State) : Bool := l.all (fun i => vectorReady i s)

theorem witness_VectorIntegerResults :
    vtFmt base.h.vt ≠ 2 ∧ vtFmt base.h.vt ≠ 3 ∧
    (let a := va 1 2 3 11 true 0 0 0
     allReady [.vadd a, .vsub a, .vrsub (va 1 2 0 11 false 1 7 0), .vand a, .vor a, .vxor a, .vsll a, .vsrl a, .vsra a, .vmin a, .vmax a, .vminu a, .vmaxu a,
      .vadds a, .vsubs a, .vaddus a, .vmul a, .vmulh a, .vmulhu a, .vmacc a, .vcmpeq a, .vcmpne a, .vcmplt a, .vcmpltu a, .vcmple a,
      .vcmpleu a, .vcmpgt (va 1 2 0 11 false 2 0 (5 * 2 ^ 10))] base = true) ∧
    (let s := underVt 4 base
     s.h.sew ≠ 64 ∧ s.h.vln * (2 * s.h.sew) ≤ 8192 ∧ allReady [.vwiden (va 1 2 0 15 false 0 0 0), .vnarrow (va 1 2 0 15 false 0 0 1)] s = true) := by
  decide +kernel

theorem witness_CrossElementResults :
    (let a := va 1 2 3 15 false 0 0 0
     let b := va 1 2 0 15 false 0 0 0
     allReady [.vmv b, .vid (va 1 0 0 15 false 0 0 0), .vmerge (va 1 2 3 11 false 0 0 0), .vmvsx (va 1 0 0 15 false 0 7 0),
       .vmvxs (va 0 2 0 15 false 0 7 0), .kand a, .kor a, .kxor a, .kandn a, .knot b, .kmv b, .ksetn (va 11 0 0 15 false 0 7 0),
       .kpopc (va 0 11 0 15 false 0 7 0), .kfirst (va 0 11 0 15 false 0 7 0), .vslup (va 1 2 0 15 false 1 7 0),
       .vslup (va 1 2 0 15 false 2 0 (4 * 2 ^ 10)), .vsldn (va 1 2 0 15 false 1 7 0), .vperm a, .vcompress (va 1 2 0 11 false 0 0 0),
       .vexpand (va 1 2 0 11 false 0 0 0), .viota b, .vredsum a, .vredmin a, .vredmax a] base = true) := by decide +kernel

/-- binary32; a conversion from binary32; BSI8 in blocks of 32, read and written as binary32. -/
theorem witness_VectorFloatResults :
    (let s := underVt 20 base
     let a := va 1 2 3 15 false 0 0 0
     vtFmt s.h.vt = 2 ∧ allReady [.vfadd a, .vfsub a, .vfmul a, .vfdiv a, .vfsqrt (va 1 2 0 15 false 0 0 0), .vfma a, .vfms a, .vfnma a,
      .vfmin a, .vfmax a, .vfsgn (va 1 2 3 15 false 0 0 2), .vfclass (va 1 2 0 15 false 0 0 0), .vfcmpeq a, .vfcmplt a, .vfcmple a,
      .vfredo a, .vfredt a, .vfredmin a, .vfredmax a] s = true ∧
      (List.range 8).all (fun cv => !cvtOk s.h.vt cv || (decide (s.h.vln * cvtSource cv 32 ≤ 8192) && decide (s.h.vln * cvtDest cv 32 ≤ 8192) &&
        vectorReady (.vfcvt (va 1 2 0 15 false 0 0 cv)) s)) = true ∧ (List.range 8).any (cvtOk s.h.vt) = true) ∧
    (let s := underVt 98 base
     vtFmt s.h.vt = 4 ∧ s.h.vln * bsWidth (va 2 5 0 15 false 0 0 0) ≤ 8192 ∧ ceilDiv s.h.vln (vtBlock s.h.vt) ≤ 1024 ∧
      allReady [.vbscale (va 2 5 0 15 false 0 0 0), .vbquant (va 9 5 2 15 false 0 0 0), .vbdeq (va 9 5 2 15 false 0 0 0)] s = true) := by
  decide +kernel

/-- The largest finite value and the smallest subnormal one of binary16 are exact. -/
theorem witness_NoFlagMeansExact :
    (fpRound binary16 0 false 2047 5 false).2 = 0 ∧ (fpRound bfloat16 3 true 1 (-133) false).2 = 0 ∧
    (fpRound binary64 1 true 1 (-1074) false).2 = 0 ∧ (fpRound binary32 2 false 0 0 false).2 = 0 := by decide +kernel

/-- Does a vector memory instruction land at its places? -/
def landing (i : Instr) (m : VAddr) (a : Access) (v : VArgs) (p : Nat → Place) (s : State) : Bool :=
  vectorReady i s && s.h.vln != 0 && (m != .indexed || decide (s.h.vln * v.indexWidth s.h.sew ≤ 8192)) && !s.targetAbsent
    && (match s.soleIssue i with
      | some cv => ((s.soleCtx cv).items m v).all (fun e => isOk ((s.soleCtx cv).checkItem m a v e) (p e))
      | none => false)

theorem lands_of {i : Instr} {m : VAddr} {a : Access} {v : VArgs} {p : Nat → Place} {s : State} (h : landing i m a v p s = true) :
    ∃ cv, s.lands i cv m a v p := by
  unfold landing at h
  simp only [Bool.and_eq_true] at h
  obtain ⟨⟨⟨⟨h1, h2⟩, h3⟩, h4⟩, h5⟩ := h
  cases e : s.soleIssue i with
  | none => simp [e] at h5
  | some cv =>
    simp only [e, List.all_eq_true] at h5
    refine ⟨cv, h1, e, by simpa using h2, fun hm => ?_, by simpa using h4, fun e he => of_isOk (h5 e he)⟩
    subst hm
    simpa using h3

/-- Mapped memory, x5 = 64, x6 = 8, V4 with the indices 0, 8, 16, 24. -/
def vmem (vt : BitVec 11) : State := underVt vt (withV 4 64 [0, 8, 16, 24] ((mapped.setX 5 64).setX 6 8))

/-- Element `e` of `w` bytes from address 64. -/
def place (w e : Nat) : Place := { key := devKey 0 (64 + e * w), repl := false, atom := true }

/-- Loads and stores of each form, the elements at both ends of VL taken. -/
theorem witness_VectorMemoryResults :
    (vmem 5).h.shaped = true ∧
    (∃ cv, (vmem 5).lands (.vld (va 1 0 0 15 false 4 5 0)) cv .unit .load (va 1 0 0 15 false 4 5 0) (place 8)) ∧
    (∃ cv, (vmem 5).lands (.vlds (va 1 0 0 15 false 4 5 (6 * 2 ^ 21))) cv .strided .load (va 1 0 0 15 false 4 5 (6 * 2 ^ 21)) (place 8)) ∧
    (∃ cv, (vmem 5).lands (.vldx (va 1 0 4 15 false 4 5 0)) cv .indexed .load (va 1 0 4 15 false 4 5 0) (place 8)) ∧
    (∃ cv, (vmem 5).lands (.vst (va 1 0 0 15 false 4 5 0)) cv .unit .store (va 1 0 0 15 false 4 5 0) (place 8)) ∧
    (∃ cv, (vmem 5).lands (.vsts (va 1 0 0 15 false 4 5 (6 * 2 ^ 21))) cv .strided .store (va 1 0 0 15 false 4 5 (6 * 2 ^ 21)) (place 8)) ∧
    (∃ cv, (vmem 5).lands (.vstx (va 1 0 4 15 false 4 5 0)) cv .indexed .store (va 1 0 4 15 false 4 5 0) (place 8)) ∧
    (∃ cv, (vmem 5).lands (.vldk (va 1 0 0 15 false 4 5 0)) cv .bytes .load (va 1 0 0 15 false 4 5 0) (place 1)) ∧
    (∃ cv, (vmem 5).lands (.vstk (va 1 0 0 15 false 4 5 0)) cv .bytes .store (va 1 0 0 15 false 4 5 0) (place 1)) := by
  and_intros <;> first | decide +kernel | exact lands_of (by decide +kernel)

/-- Atomics, and elements of less than a byte. -/
theorem witness_VectorMemoryResults_others :
    sxaddVt 5 = true ∧ vtFmt (vmem 5).h.vt = 0 ∧ 32 ≤ (vmem 5).h.sew ∧ (vmem 1).h.sew = 4 ∧
    (∃ cv, (vmem 5).lands (.vsxadd (va 1 0 4 15 false 4 5 0)) cv .indexed .atomic (va 1 0 4 15 false 4 5 0) (place 8)) ∧
    (∃ cv, (vmem 5).lands (.vamoadd (va 1 0 4 15 false 4 5 0)) cv .indexed .atomic (va 1 0 4 15 false 4 5 0) (place 8)) ∧
    (∃ cv, (vmem 5).lands (.vamomin (va 1 0 4 15 false 4 5 0)) cv .indexed .atomic (va 1 0 4 15 false 4 5 0) (place 8)) ∧
    (∃ cv, (vmem 5).lands (.vamomax (va 1 0 4 15 false 4 5 0)) cv .indexed .atomic (va 1 0 4 15 false 4 5 0) (place 8)) ∧
    (∃ cv, (vmem 1).lands (.vst (va 1 0 0 15 false 4 5 0)) cv .unit .store (va 1 0 0 15 false 4 5 0) (fun e => place 1 (e / 2))) ∧
    (vmem 1).h.loops.opn = false ∧ (vmem 1).h.closed = [] ∧ (vmem 1).h.ssb = [] ∧ (vmem 1).h.shaped = true ∧
    (∀ e, e < 4 → (place 1 (e / 2)).repl = false ∧ ∀ f, f < 4 → (place 1 (e / 2)).key ∈ (place 1 (f / 2)).homes 0 → f * 4 / 8 = e * 4 / 8) := by
  and_intros <;> first | decide +kernel | exact lands_of (by decide +kernel)

/-- At VL = 0: plain accesses of elements of a byte and less, and atomics. -/
theorem witness_VectorMemoryResults_empty :
    let none' := fun (vt : BitVec 11) => (vmem vt).mapH (fun h => { h with vl := 0 })
    let u := va 1 0 0 15 false 4 5 0
    let x := va 1 0 4 15 false 4 5 0
    (none' 5).h.vln = 0 ∧ allReady [.vld u, .vst u, .vldk u, .vstk u] (none' 1) = true ∧
    allReady [.vlds u, .vldx x, .vsts u, .vstx x] (none' 5) = true ∧
    ([.vsxadd x, .vamoadd x, .vamomin x, .vamomax x] : List Instr).all (fun i => ((none' 5).soleIssue i).isSome && vectorReady i (none' 5)) = true := by
  decide +kernel

/-! #### Panes, packed products, hashing, convoys -/

/-- The modifiers of an MTX word. -/
def mtx (pane rows fwd f mod : Nat) : Nat := pane * 2 ^ 20 + rows * 2 ^ 16 + fwd * 2 ^ 13 + f * 2 ^ 10 + mod

/-- The base state, pane `n` claimed with a type. -/
def claimed (n : Nat) (ty : PaneType) (s : State) : State :=
  s.mapCore (fun k => { k with panes := k.panes.set n { freePane with owner := some 0, ty := ty } })

/-- Is a sole convoy's issue defined? -/
def issues (i : Instr) (s : State) : Bool := vectorReady i s && (s.soleIssue i).isSome

/-- The last panes of a core, all free, or one of another hart. -/
theorem witness_PanesAndRows :
    let s := claimed 47 .int64 base
    s.core.shaped = true ∧ issues (.pclaim (va 0 0 0 15 false 5 7 (mtx 44 3 0 0 0))) base = true ∧ 44 + 3 < 48 ∧
    ((paneRange (va 0 0 0 15 false 5 7 (mtx 44 3 0 0 0))).all (fun n => (base.core.pane n).owner == none)) = true ∧
    (let o := base.mapCore (fun k => { k with panes := k.panes.set 45 { freePane with owner := some 1 } })
     issues (.pclaim (va 0 0 0 15 false 5 7 (mtx 44 3 0 0 0))) o = true ∧ (o.core.pane 45).owner = some 1) ∧
    issues (.pfree (va 0 0 0 15 false 5 0 (mtx 47 0 0 0 0))) s = true ∧
    ((paneRange (va 0 0 0 15 false 5 0 (mtx 47 0 0 0 0))).all (fun n => (s.core.pane n).owner == some s.h.id)) = true ∧
    vectorReady (.mrdrow (va 1 0 0 15 false 5 0 (mtx 47 15 0 0 0))) s = true ∧ (s.core.pane 47).ty.width = s.h.sew ∧
    (s.core.pane 47).failed = false ∧ issues (.mzero (va 0 0 0 15 false 5 0 (mtx 47 0 0 0 2))) s = true := by decide +kernel

/-- A layout of four-bit fields at a pitch of 16 bits, two to a word, checked word by word, three outputs of 32 bits. -/
def layout (xmode guard : Nat) : Word :=
  BitVec.ofNat 64 (16 + 2 * 2 ^ 7 + 2 * 2 ^ 12 + 4 * 2 ^ 17 + 4 * 2 ^ 23 + guard * 2 ^ 32 + 3 * 2 ^ 40 + 4 * 2 ^ 46 + xmode * 2 ^ 49)

theorem witness_MatrixCaptures :
    (List.replicate 16 (0 : BitVec 8192)).length = 16 ∧
    (let s := claimed 3 .int32 (underVt 2 base)
     s.h.vln ≠ 0 ∧ s.h.shaped = true ∧ (s.core.pane 3).owner = some s.h.id ∧ mmaVt s.h.vt = true ∧ mmaPane s.h.vt .int32 = true ∧
       s.h.vln ≤ 8192 / 32 ∧ issues (.mma (va 8 1 0 11 true 5 0 (mtx 3 15 0 0 0))) s = true) ∧
    (let s := claimed 3 .fp32 (underVt 98 base)
     mmaVt s.h.vt = true ∧ mmaPane s.h.vt .fp32 = true ∧ vtFmt s.h.vt = 4 ∧ issues (.mma (va 8 1 16 15 false 5 0 (mtx 3 1 0 0 0))) s = true) ∧
    (let s := claimed 3 .fp64 (underVt 21 base)
     mmaVt s.h.vt = true ∧ mmaPane s.h.vt .fp64 = true ∧ vtFmt s.h.vt = 2 ∧ issues (.mma (va 8 1 0 15 false 5 0 (mtx 3 0 0 0 0))) s = true) ∧
    (let s := claimed 3 .int64 base
     (s.core.pane 3).ty.width = s.h.sew ∧ issues (.mwrrow (va 1 0 0 15 false 5 0 (mtx 3 15 0 0 0))) s = true) ∧
    (let s := (claimed 3 .int64 base).mapH (fun h => { h with f := h.f.set 2 (layout 1 1) })
     let v := va 8 1 0 15 false 5 0 (mtx 3 7 2 2 1)
     layoutOk (layout 1 1) = true ∧ productVt s.h.vt = true ∧ s.h.fr 2 ≠ 0 ∧ flXMode (s.h.fr 2) = 1 ∧ flGuard (s.h.fr 2) = 1 ∧
       8 + (v.rows + 1) ≤ 16 ∧ issues (.mconv v) s = true ∧ (match s.soleIssue (.mconv v) with
         | some cv => (upTo 8).all (fun r => (upTo (ceilDiv s.h.vln 2)).all (fun j => (upTo 3).all (fun g =>
             wordsHold (s.h.fr 2) ((s.soleCtx cv).signal v r j) ((s.soleCtx cv).filterWord v g))))
         | none => false) = true) := by decide +kernel

/-- At VL = 0, whatever the pane. -/
theorem witness_MatrixCaptures_empty :
    let empty := fun (s : State) => s.mapH (fun h => { h with vl := 0 })
    mmaVt (empty (underVt 2 base)).h.vt = true ∧
    vectorReady (.mma (va 8 1 0 11 true 5 0 (mtx 3 15 0 0 0))) (empty (claimed 3 .int32 (underVt 2 base))) = true ∧
    (let s := empty ((claimed 3 .int64 base).mapH (fun h => { h with f := h.f.set 2 (layout 1 1) }))
     productVt s.h.vt = true ∧ s.h.fr 2 ≠ 0 ∧ flXMode (s.h.fr 2) = 1 ∧ vectorReady (.mconv (va 8 1 0 15 false 5 0 (mtx 3 7 2 2 1))) s = true ∧
       vectorReady (.mwrrow (va 1 0 0 15 false 5 0 (mtx 3 15 0 0 0))) s = true) := by decide +kernel

/-- Two captured updates of one pane, the second of which waits for the first. -/
theorem witness_MatrixUpdateApplies :
    let u : Update := { pane := 3, rows := 3, bytes := 0, kind := .mzero }
    let s := (claimed 3 .int32 base).mapH (fun h => { h with mq := [u, u] })
    s.h.mq[0]? = some u ∧ s.h.mq[1]? = some u ∧ u ∈ s.h.mq.take 1 ∧ u.rows &&& u.rows ≠ 0 ∧ s.h.mq.take 0 = [] ∧
    u.pane < s.core.panes.length := by decide +kernel

theorem witness_PackedResults :
    let s := (withX [(7, layout 0 1)]).mapH (fun h => { h with f := h.f.set 2 (layout 0 1) })
    let f := 2 * 2 ^ 23
    layoutOk (layout 0 1) = true ∧ staticOk (layout 0 1) = true ∧ s.h.vln ≠ 0 ∧ s.h.fr 2 ≠ 0 ∧
    vectorReady (.flset (va 0 0 0 15 false 6 7 f)) s = true ∧ vectorReady (.flget (va 0 0 0 15 false 6 7 f)) s = true ∧
    (let e := underVt 2 s
     vectorReady (.vpack (va 1 2 0 15 false 6 0 f)) e = true ∧ packVt e.h.vt = true ∧ ceilDiv e.h.vln (flNA (e.h.fr 2)) ≤ 64 ∧
       (upTo 4).all (fun i => inField (flWA (e.h.fr 2)) (flSA (e.h.fr 2)) ((e.h.elem 2 8 i : Nat) : Int)) = true) ∧
    productVt s.h.vt = true ∧ outputCount (s.h.fr 2) (ceilDiv s.h.vln 2) * flXWb (s.h.fr 2) ≤ 8192 ∧
    vectorReady (.vpconv (va 1 2 3 15 false 6 0 f)) s = true ∧ vectorReady (.vpconva (va 1 2 3 15 false 6 0 f)) s = true ∧
    vectorReady (.vfext (va 1 2 0 15 false 6 0 f)) s = true ∧ wordsHold (s.h.fr 2) 0 0 = true ∧
    (let z := s.mapH (fun h => { h with vl := 0 })
     z.h.vln = 0 ∧ vectorReady (.vpconv (va 1 2 3 15 false 6 0 f)) z = true) := by decide +kernel

/-- A family of four-bit codes, one to a row. -/
def family : Word := 4

/-- A hash table with a descriptor at 0x1000 (four buckets at 0x2000, two chain lines at 0x4000, the codes of a rehash at 0x5000), its
lines full of row 0; x5 names it. -/
def table (rehash : Bool) : State :=
  let d := devKey 0 0x1000
  let s := ((mapped.setX 5 0x1000).mapH (fun h => { h with hf := h.hf.set 1 family, vl := 2 })).perform .outside
    (cellsOf d 8 (1 + 2 * 2 ^ 8 + rehash.toNat * 2 ^ 15) ++ cellsOf (d + 8) 8 0x2000 ++ cellsOf (d + 16) 8 0x4000
      ++ cellsOf (d + 24) 8 (2 + 1 * 2 ^ 24) ++ cellsOf (d + 32) 8 4 ++ cellsOf (d + 40) 8 0x5000)
  underVt 4 (withV 2 32 [0, 5] (withV 5 32 [7, 9] s))

/-- The table as the sole convoy of an instruction opens it. -/
def opened (i : Instr) (v : VArgs) (a : Access) (fam : Option Word) (home : Bool) (rehash : Bool) : Bool :=
  let s := table rehash
  vectorReady i s && (match s.soleIssue i with
    | some cv => (match (s.soleCtx cv).table v a (if home then readHome else readAgent) fam with
      | .ok t => t.rehash s == rehash
      | .error _ => false)
    | none => false)

/-- The table under rehash, with its migration captured at step `age`. -/
def migrating (age : Nat) : State :=
  (table true).mapH (fun h => { h with migr := [{ desc := 0x1000, passes := 2, ctxid := 0, sup := true, age := age }] })

/-- A QLD and a QREST whose ranges meet the table of a migration, and a record that lies in it. -/
theorem witness_StreamStarts_migration :
    let s := (tiled 3 .empty (migrating 0)).mapH (fun h => { h with vt := 5 })
    let q := (s.newStream 0 (wq 1 3 5 0 0)).ranged
    wqFieldsOk (.qld (wq 1 3 5 0 0)) = true ∧ s.streamVt (.qld (wq 1 3 5 0 0)) = true ∧ s.h.convoys = [] ∧ s.h.squeue = [] ∧
    s.h.conflicts q = false ∧ s.migrationMeets q = true ∧ s.recordWaits true (s.h.rx 5) = true ∧ s.recordWaits false (s.h.rx 5) = true ∧
    (table true).migrationMeets q = false := by decide +kernel

/-- Do the steps of an update end well? -/
def steps (i : Instr) (v : VArgs) (f : Table → State → Nat → Nat → Except HFail (State × Bool × Nat)) : Bool :=
  let s := table false
  match s.soleIssue i with
  | some cv => (match (s.soleCtx cv).table v .atomic readHome (some family) with
    | .ok t => (match tableSteps (fun s1 e => f t s1 (s.h.elem v.vs1.toNat 32 e) (s.h.elem v.vs2.toNat 32 e)) none (s.atRetire cv).beforeAtomic.atHome
        (s.h.activeBelow v s.h.vln) with
      | .ok (_, rs) => rs.length == 2
      | .error _ => false)
    | .error _ => false)
  | none => false

theorem witness_HashResults :
    (let s := table false
     let v := va 3 2 5 15 false 7 5 (1 * 2 ^ 24 + 6 * 2 ^ 16)
     let w := va 3 2 5 15 false 7 5 (1 * 2 ^ 24)
     s.h.vln ≠ 0 ∧ s.h.vln ≤ 8 ∧ hashVt s.h.vt = true ∧ s.h.hr 1 ≠ 0 ∧ familyOk family = true ∧
       opened (.hins v) v .atomic (some family) true false = true ∧ steps (.hins v) v Table.hins = true ∧
       opened (.hdel w) w .atomic (some family) true false = true ∧ steps (.hdel w) w Table.hdel = true ∧
       vectorReady (.hfset (va 0 0 0 15 false 7 1 (1 * 2 ^ 24))) (s.setX 1 family) = true ∧ (s.setX 1 family).h.rx 1 = family) := by
  decide +kernel

theorem witness_HashResults_reads :
    (let p := va 6 2 0 15 false 7 5 (1 * 2 ^ 24 + 2)
     opened (.hprobe p) p .load (some family) false false = true ∧
     (match (table false).soleIssue (.hprobe p) with
       | some cv => cv.probes == [] && (match ((table false).soleCtx cv).probeTable p with
         | .ok t => (match ((table false).soleCtx cv).probes p t ((table false).h.activeBelow p 2) with
           | .ok ls => ls.length == 2
           | .error _ => false)
         | .error _ => false)
       | none => false) = true) ∧
    (let q := va 0 0 0 15 false 7 5 3
     opened (.hrehash q) q .atomic none false true = true) ∧
    issues (.hfence (va 0 0 0 15 false 7 0 0)) (table true) = true ∧ (table true).h.heldFail = [] ∧
    (let q := va 6 0 0 15 false 7 5 0
     opened (.hstat q) q .load none false false = true) ∧
    (let s := (claimed 3 .int32 (underVt 4 base)).mapH (fun h => { h with hf := h.hf.set 1 family })
     let v := va 1 0 0 15 false 7 0 (1 * 2 ^ 24 + 3 * 2 ^ 18)
     vectorReady (.hcode v) s = true ∧ (s.core.pane v.hPane).owner = some s.h.id ∧ s.h.vln ≤ 16 * hfCodes family ∧
       hfC0 family + hfL family * hfK family ≤ 8192 / 32 ∧ (s.core.pane v.hPane).failed = false) := by decide +kernel

/-- Elements of which 1 meets an abort completion and 2 is refused: in either order the refusal is the outcome, without it the abort. -/
theorem witness_HashResults_steps :
    let f : State → Nat → Except HFail (State × Bool × Nat) := fun s e =>
      if e = 1 then .error { cause := .data, abort := true, addr := 8 }
      else if e = 2 then .error { cause := .page, abort := false, addr := 16 } else .ok (s, true, e)
    let out := fun (l : List Nat) => match tableSteps f none base l with
      | .ok (_, rs) => some (rs.map (·.1), none)
      | .error (x, e) => some ([e], some x.abort)
    out [0, 3] = some ([0, 3], none) ∧ (match f base 1 with | .error x => x.abort | .ok _ => false) = true ∧
    (match f base 2 with | .error x => !x.abort | .ok _ => false) = true ∧ out [0, 1, 3] = some ([1], some true) ∧
    out [0, 1, 3, 2] = some ([2], some false) ∧ out [0, 2, 1] = some ([2], some false) := by decide +kernel

/-- A probe, an insert and a delete at VL = 0, with no failure held for the descriptor and with one. -/
theorem witness_HashResults_empty :
    let s := (table false).mapH (fun h => { h with vl := 0 })
    let p := va 6 2 0 15 false 7 5 (1 * 2 ^ 24 + 2)
    let w := va 3 2 5 15 false 7 5 (1 * 2 ^ 24)
    let f : HeldFailure := { desc := 0x1000, cause := .hash, address := 0x2000 }
    s.h.vln = 0 ∧ hashVt s.h.vt = true ∧ s.h.hr 1 ≠ 0 ∧ issues (.hprobe p) s = true ∧ issues (.hdel w) s = true ∧
    (s.h.heldFail.all (fun g => g.desc != 0x1000)) = true ∧
    (let h := s.mapH (fun h => { h with heldFail := [f] })
     h.h.stopped = false ∧ issues (.hprobe p) h = true ∧ h.h.heldFail.find? (fun g => g.desc == 0x1000) = some f ∧
       (ran (.hprobe p) h).h.trap.ecause.toNat % 256 = 0x0E) := by decide +kernel

/-- A hart with the sole convoy of one instruction, issued or not. -/
def pushed (i : Instr) (issued : Bool) (s : State) : State :=
  s.mapH (fun h => { h with convoys := [{ s.soleConvoy i with issued := issued }] })

/-- A header off its place, one that names its unit twice, one with STG 0 and a stage, a convoy that runs, one past its LEND, one of a
stage that no level gates, one that is gated off, one without registers. -/
theorem witness_ConvoysRunWhole_push :
    let h := header 0
    let at8 := base.mapH (fun h => { h with pc := 8 })
    let body := fun (sp : BitVec 8) (lend : Word) => looped lend 5 sp 2 false false false base
    at8.h.pc.toNat % 8 ≠ 4 ∧ base.h.pc.toNat % 8 = 4 ∧ ({ h with nMinus1 := 1 }).encOk = false ∧
    h.encOk = true ∧ ({ h with stage := 3 }).encOk = true ∧ ({ h with stage := 3 }).illOk = false ∧
    (match checkConvoy base.h.pc h [0x000841F800000000] with | .ok is => is == [.vadd (vv 1 2 3)] | .error _ => false) = true ∧
    (body 1 12).h.loops.overruns 4 16 = true ∧ (body 1 16).h.loops.overruns 4 16 = false ∧
    (body 1 16).h.loops.gate 2 = none ∧ ((body 1 16).h.loops.gate 0).map (fun l => l.sp.getLsbD 0) = some true ∧
    ((body 1 16).h.loops.gate 1).map (fun l => l.sp.getLsbD 1) = some false ∧ base.h.vstate ≠ 0 ∧
    (base.mapH (fun h => { h with vstate := 0 })).h.vstate = 0 := by decide +kernel

/-- Issues: a word that VT does not suit, a lost cluster in and out of a strip, a convoy that waits, one that issues. -/
theorem witness_ConvoysRunWhole_issue :
    let s := pushed (.vadd (vv 1 2 3)) false base
    let cv := s.soleConvoy (.vadd (vv 1 2 3))
    let bad := underVt 20 s
    let lost := s.mapCore (fun k => { k with lanedis := 1 })
    s.h.convoys = [cv] ∧ cv.issued = false ∧ (cv.illFrom bad 0 cv.words).isSome = true ∧ cv.illFrom s 0 cv.words = none ∧
    cv.illFrom lost 0 cv.words = none ∧ lost.lostCluster = some 0 ∧ lost.h.unsealed = false ∧
    (lost.mapH (fun h => { h with loops := { h.loops with opn := true } })).h.unsealed = true ∧ s.lostCluster = none ∧
    (s.ready cv).isSome = true ∧ (s.ready cv).any (fun p => p.1.issued && p.1.words == cv.words && p.1.grant == s.h.grant) = true ∧ (upTo 4).any (fun j => 4 * s.core.id + j != s.h.id && s.yieldsTo cv (4 * s.core.id + j)) = false ∧
    (let w := s.mapCore (fun k => { k with held := k.held.set 0 none })
     w.lostCluster = none ∧ w.ready cv = none) := by decide +kernel

/-- Retirements: one that a migration holds, one that is refused, one that ends well; a read step, of the lowest code that has none, and one
that waits for it. -/
theorem witness_ConvoysRunWhole_retire :
    let s := pushed (.vadd (vv 1 2 3)) true base
    let f := pushed (.hfence (va 0 0 0 15 false 7 0 0)) true (base.mapH (fun h =>
      { h with migr := [{ desc := 0, passes := 1, ctxid := 0, sup := true, age := 0 }] }))
    let m := pushed (.vld (va 1 0 0 15 false 4 3 0)) true base
    let run := fun (s : State) => match s.h.convoys with
      | cv :: _ => runSlots cv.words (Ctx.start s cv)
      | [] => .error (.held 0 { cause := .ill, bp := 0, epc := 0, eval := 0, eelem := 0, elane := 0 })
    (f.h.convoys.any (fun cv => cv.issued && cv.words.any (fun i => holdsRetirement i f))) = true ∧
    (s.h.convoys.any (fun cv => cv.issued && !cv.words.any (fun i => holdsRetirement i s))) = true ∧
    (match run s with | .ok _ => true | .error _ => false) = true ∧
    (match run m with | .error (.trap x) => x.cause == .align | _ => false) = true ∧ m.h.stopped = false ∧
    s.h.overdue s.dev.time = false ∧ (atTime 2000 (s.mapH (fun h => { h with taking := some 0 }))).h.overdue 2000 = true ∧
    (let p := va 6 2 0 15 false 7 5 (1 * 2 ^ 24 + 2)
     let t := pushed (.hprobe p) true (table false)
     match t.h.convoys with
     | cv :: _ =>
       let step := fun (cv : Convoy) e =>
         let r := t.atHome.latched cv.words (Ctx.start t.atHome cv)
         Ctx.readStep cv.words (Ctx.start r.1 { cv with loaded := r.2 }) e
       cv.issued && (step cv 0).isSome && (step cv 1).isNone && (step { cv with probes := [(0, 0)] } 1).isSome
     | [] => false) = true := by decide +kernel

/-- A convoy of HSTAT and an indexed load in TILE space, of the element whose index is dword 1 of the descriptor: the tile that its index names is READY, or FILLING, for which it waits. -/
theorem witness_ConvoysRunWhole_late :
    let stat := va 4 0 0 15 false 7 5 0
    let load := va 1 0 4 1 false 4 3 0
    let s := fun (st : TileState) =>
      let t := (tiled 0 st (table false)).mapH (fun h => { h with vmt := 2, vl := 2, vt := 5, vlcap := 16, k := h.k.set 1 2 })
      (t.setX 3 (0 - 0x2000)).mapH (fun h => { h with convoys := [{ newConvoy 4 24 [.hstat stat, .vldx load] 0 with issued := true }] })
    let settled := fun (t : State) => match t.h.convoys with
      | cv :: _ => (lateWord cv.words, ((t.tablesRead cv).settled cv).isSome)
      | [] => (false, false)
    (s .ready).h.overdue (s .ready).dev.time = false ∧ (settled (s .ready)).1 = true ∧ (settled (s .filling)) = (true, false) ∧
    settled (pushed (.vadd (vv 1 2 3)) true base) = (false, true) := by decide +kernel

/-- The hart whose convoy of VADD mismatches in element 3, in protected mode: outside a strip, in one that has sealed, in one that may
rewind and in one that may not; the first mismatch of its lane and the second. -/
theorem witness_ConvoysRunWhole_mismatch :
    let s := fun (n : Nat) (opn sealed : Bool) (rewinds : BitVec 4) =>
      ((pushed (.vadd (vv 1 2 3)) true base).mapH (fun h => { h with
        pmodeNow := true, retry := 2, loops := { h.loops with opn := opn, sealed := sealed, rewinds := rewinds } })).mapCore
        (fun k => { k with mismatch := k.mismatch.set 3 n })
    let u := fun (t : State) => ({ ({ t with agenda := [.mismatch t.h.id 0 3 false] } : State) with agenda := [] } : State).tick
    let meets := fun (t : State) => match (u t).h.convoys with
      | cv :: _ => cv.issued && (u t).h.pmodeNow && (u t).h.id == t.h.id && (match convoySlot 0 cv.words (Ctx.start (u t) ((u t).running cv)) with
        | some (i, op, v, c) => c.mirrors i op v 3 false
        | none => false)
      | [] => false
    meets (s 0 false false 0) = true ∧ meets (s 1 true true 0) = true ∧ meets (s 1 true false 1) = true ∧
    meets (s 0 true false 2) = true ∧ (u (s 1 true false 1)).h.loops.rewinds.toNat < (u (s 1 true false 1)).h.retry.toNat ∧
    (u (s 0 true false 2)).h.retry.toNat ≤ (u (s 0 true false 2)).h.loops.rewinds.toNat ∧
    (u (s 1 true true 0)).core.mismatch.getD 3 0 + 1 = 2 := by decide +kernel

theorem witness_ConvoysRunWhole_alone :
    let i : Instr := .vadd (vv 1 2 3)
    vectorReady i base = true ∧ vectorReady i (underVt 20 base) = true ∧ (match opOf i, base.soleIssue i with
      | some (op, v), some cv => op.ill v ((underVt 20 base).queued i) && !op.ill v (base.queued i) &&
          (match op.run v (base.soleCtx cv) with | .ok _ => true | .error _ => false)
      | _, _ => false) = true := by decide +kernel

/-! #### Invariants and events -/

theorem witness_StepKeepsMemoryCanonical : placed.mem.wf = true ∧ (Machine.after base (step placed)).h.pc = 8 := by decide +kernel

theorem witness_StepKeepsShape : placed.shaped = true ∧ (Machine.after base (step placed)).h.rx 1 = 7 := by decide +kernel

/-- A hart in user mode that executes TRAP. -/
theorem witness_UserModeEndsAtTheVector :
    let s := base.mapH (fun h => { h with trap := { h.trap with sup := false } })
    spontaneous (.trap 3) = false ∧ s.h.trap.sup = false ∧ (ran (.trap 3) s).h.trap.sup = true := by decide +kernel

theorem witness_ExecAlwaysAnswers :
    messageOk (.write 5 (2 ^ 37 - 1) [7]) = true ∧ messageOk (.read 0 0 (2 ^ 37)) = true ∧ messageOk (.write 6 0 []) = false := by
  decide +kernel

/-- A table under rehash, with the migration of one hart: a table that is not under rehash, a pass that works, one that meets a chain of which
a line is not mapped. -/
theorem witness_CoreEvents_migration :
    let m : Migration := { desc := 0x1000, passes := 2, ctxid := 0, sup := true, age := 1 }
    let opens := fun (s : State) => let s0 := s.atHome.mapH (fun h => { h with closed := [], ssb := [] })
      (s0, openTable s0 m.desc .atomic m.ctxid m.sup readHome (fun t atom => t.good s0 atom none))
    let s := fun (r : Bool) => (table r).mapH (fun h => { h with migr := [m] })
    (s true).h.migr = m :: [] ∧ (match opens (s false) with | (s0, .ok t) => !t.rehash s0 | _ => false) = true ∧
    (match opens (s true) with | (s0, .ok t) => t.rehash s0 && (match t.pass s0 with | .ok _ => true | .error _ => false) | _ => false) = true ∧
    (match opens ((s true).perform .outside (cellsOf (devKey 0 (0x1000 + 8)) 8 0x80002000)) with
      | (s0, .ok t) => t.rehash s0 && (match t.pass s0 with | .error _ => true | .ok _ => false)
      | _ => false) = true ∧
    (s true).passWaits m ((s true).passLines m) = false ∧
    (let q : Stream := { (started 1 .ready) with age := 0, writes := [(0x1030, 0x1038)] }
     let w := (s true).setStream 4 (some q)
     some q ∈ w.h.streams ∧ q.running = true ∧ q.age < m.age ∧ (w.passLines m).any (fun a => inRanges (q.reads ++ q.writes) (a.toNat / 64 * 64) 64) = true) := by
  decide +kernel

/-- A write of scalar agent 0 from die 0 to a die. -/
def written (target key : Nat) (b : Byte) : Write :=
  { id := 0, group := 0, agent := .scalar 0, cells := [(key, b)], mask := 0xFF, repl := false, atom := false, shown := false, waits := [], ctxid := 0, source := 0,
    target := target, seq := 0, version := 0, done := false }

/-- An accepted write, and a later one of the same agent to the same byte. -/
def pending : State := mapped.mapDev (fun d => { d with writes := [written 0 (devKey 0 64) 7, { written 0 (devKey 0 64) 8 with id := 1, group := 1 }] })

theorem witness_CoreEvents_writes :
    (match mapped.leafOf mapped.h.ctxid.toNat 64 with | .ok _ => true | .error _ => false) = true ∧
    (match mapped.leafOf mapped.h.ctxid.toNat (2 ^ 57) with | .ok _ => false | .error _ => true) = true ∧
    ((pending.dev.writes[0]?).any (fun w => w.mayPass pending.forwarding (pending.dev.writes.take 0) && !w.done && !pending.dev.lost.getLsbD w.target)) = true ∧
    ((pending.dev.writes[1]?).any (fun w => !w.mayPass pending.forwarding (pending.dev.writes.take 1))) = true ∧
    (let l := mapped.mapDev (fun d => { d with lost := 32, writes := [written 5 (devKey 5 64) 7] })
     (l.dev.writes[0]?).any (fun w => w.mayPass l.forwarding [] && !w.done && l.dev.lost.getLsbD w.target) = true ∧ l.mem.wf = true) ∧
    (let l := mapped.mapDev (fun d => { d with poison := [devKey 0 64], writes := [{ written 0 (devKey 0 64) 7 with mask := 0x0F }] })
     (l.dev.writes[0]?).any (fun w => w.mayPass l.forwarding [] && !w.done && !l.dev.lost.getLsbD w.target && w.mask != 0xFF) = true) := by
  decide +kernel

/-- Reads that an abort completion can meet: none of a VADD, element 1 of a VLD, the bytes of a load at the PC, the word there, neither; a
cluster that nobody has, one that its hart has named, one that it names no longer and uses or does not. -/
theorem witness_CoreEvents_others :
    (base.h.active = true ∧ base.h.stopped = false ∧ base.h.halted = false ∧ base.h.convoys = [] ∧ base.h.wait = .none ∧ base.h.squeue = []) ∧
    (let s := pushed (.vadd (vv 1 2 3)) true base
     s.h.convoys.all (fun cv => cv.issued && (readerOf 0 1 1 cv.words (Ctx.start s cv)).isNone) = true) ∧
    (let s := pushed (.vld (va 1 0 0 15 false 4 5 0)) true (vmem 5)
     s.h.convoys.all (fun cv => cv.issued && (readerOf 72 1 (laneOf cv.grant 64 1) cv.words (Ctx.start s cv)).isSome) = true) ∧
    (let x := va 1 0 4 15 false 4 5 0
     let s := (pushed (.vamoadd x) true (vmem 5)).mapDev (fun d => { d with poison := [devKey 0 72] })
     s.h.convoys.all (fun cv => match readerOf 72 1 (laneOf cv.grant 64 1) cv.words (Ctx.start s cv) with
       | some (i, c) => performsBelow i c && sealsStrip i && (match opOf i with
         | some (op, v) => (match op.run v c with | .error (.abort t) => t.eelem == 1 | _ => false)
         | none => false)
       | none => false) = true) ∧
    (let w := (State.reset.withFetchWord 32 0x23018008).mapH (fun h => { h with ahead := [] })
     (match w.fetch with | .instr i => i == .ldd 6 0 8 && (w.dataReads i).1 == [8] | _ => false) = true ∧ w.h.active = true ∧
       w.h.convoys = [] ∧ w.h.wait = .none ∧ w.h.squeue = [] ∧ (16 : Word) ≠ w.h.pc) ∧
    (base.core.held.getD 1 none = none ∧ base.core.held.getD 0 none = some 0 ∧ (base.core.lineOf 0).contains 0 = true) ∧
    (let d := base.mapCore (fun k => { k with line := k.line.set 0 [] })
     d.core.held.getD 0 none = some 0 ∧ (d.core.lineOf 0).contains 0 = false ∧ (d.hartOf (4 * d.core.id + 0)).convoys = []) ∧
    (let d := (pushed (.vadd (vv 1 2 3)) true base).mapCore (fun k => { k with line := k.line.set 0 [] })
     let e := d.mapH (fun h => { h with convoys := h.convoys.map (fun c => { c with clusters := [0] }) })
     (e.hartOf (4 * e.core.id + 0)).convoys.any (fun v => v.issued && v.clusters.contains 0) = true) := by
  decide +kernel

theorem witness_PreemptionEvents :
    let q := base.perform .outside (cellsOf (windowKey 0 0x20010) 8 3)
    let t := base.mapH (fun h => { h with taking := some 0 })
    base.h.stopped = false ∧ base.h.active = true ∧ base.h.trap.te = true ∧ base.h.taking = none ∧ base.h.claimAhead = false ∧
    field (q.contextField q.h.ctxid.toNat 2) 0 32 = 3 ∧ q.h.slice + 1000 * 3 ≤ (atTime 3000 q).dev.time ∧
    (atTime 2999 q).dev.time < q.h.slice + 1000 * 3 ∧ field (base.contextField base.h.ctxid.toNat 2) 0 32 = 0 ∧
    t.h.taking = some 0 ∧ t.h.holding = false ∧ (t.mapH (fun h => { h with holding := true })).h.holding = true ∧ t.h.ahead = [] ∧
    (let e : Ahead := { pc := 16, word := .vsetvl 6 9 8, kind := .head 1 (some (0, 16)) (some (sdm 64)) }
     let h := { t.h with ahead := [e], squeue := [{ pc := 4, word := .tfree (wq 0 3 0 0 0) }] }
     h.claimAhead = true ∧ e ∈ h.ahead.drop h.stopPushing.ahead.length) ∧
    ((waiting (.bar (some 64) 7)).resolveWait.h.trap.te = false) ∧ 0 + 2000 ≤ (atTime 2000 t).dev.time ∧ (atTime 1999 t).dev.time < 0 + 2000 ∧ t.h.trap.te = true ∧ t.h.convoys = [] ∧
    t.h.squeue = [] ∧ t.h.unsealed = false ∧
    (let u := t.mapH (fun h => { h with loops := { h.loops with opn := true },
                                        ckpt := some { xs := [], vmt := 0, loops := clearLoops, pc := 12, claim := none } })
     u.h.unsealed = true ∧ u.h.ckpt.isSome = true) := by decide +kernel

/-- The slot of die 0 whose GO is set, with its request. -/
def going (r : HearthRequest) (w : Nat) (s : State) : State :=
  (s.perform .outside (cellsOf (windowKey 0 (w + 16)) 8 (2 ^ 63))).mapDev (fun d => { d with requests := [r] })

theorem witness_DebugAndMaintenanceEvents :
    let snap := fun (t : Nat) => atTime 64 (base.mapDev (fun d => { d with snapshot := some t }))
    let held := base.mapDev (fun d => { d with snapHeld := true, requests := [.snapshot 5] })
    let x : Shootdown := { die := 0, ctxid := 0, va := 0, length := 4096 }
    let shot := base.mapDev (fun d => { d with shootdowns := [x] })
    let busy := shot.mapH (fun h => { h with ssb := [scalarStoreOf 0 64 (sdmPlace 0) 1 1] })
    let cold := base.mapDev (fun d => { d with bringUp := 1 })
    base.mem.wf = true ∧ base.dev.snapshot = none ∧ (snap 65).dev.snapshot = some 65 ∧ (snap 65).dev.time < 65 ∧ 64 ≤ (snap 64).dev.time ∧
    held.dev.snapHeld = true ∧ (upTo 6).any held.released = true ∧ (upTo 6).any base.released = false ∧
    (going (.shootdown 0) 0x10000 base).goSet (.shootdown 0) 0 0x10000 = true ∧ base.goSet (.shootdown 0) 0 0x10000 = false ∧
    shot.dev.shootdowns.find? (·.die == 0) = some x ∧ shot.allHarts.any (shot.heldUp x) = false ∧ busy.allHarts.any (busy.heldUp x) = true ∧
    base.dev.shootdowns.find? (·.die == 0) = none ∧ base.hearthsUp = true ∧ cold.hearthsUp = false ∧
    (let bad := (going (.shootdown 0) 0x10000 base).mapDev (fun d => { d with poison := [windowKey 0 0x10017] })
     HearthRequest.shootdown 0 ∈ bad.dev.requests ∧ bad.poisoned (windowKey 0 0x10000) 24 = true) ∧
    (let bad := (going (.attestation 0) 0x10040 base).mapDev (fun d => { d with poison := [windowKey 0 0x10040] })
     HearthRequest.attestation 0 ∈ bad.dev.requests ∧ bad.poisoned (windowKey 0 0x10040) 24 = true) ∧
    (let v := pushed (.vld (va 1 0 0 15 false 4 5 0)) true (vmem 5)
     v.h.ctxid = x.ctxid ∧ v.h.convoys.all (fun cv => cv.issued && cv.words.any (fun i => readsTable i || (v.h.space == 0 && (memForm i).isSome))) = true ∧
       v.h.convoys ≠ []) := by decide +kernel

/-- An attestation of die 0: one whose addresses are mapped, one whose nonce is not, one whose nonce holds an error; and one of die 5. -/
theorem witness_DebugAndMaintenanceEvents_attestation :
    let s := fun (nonce : Nat) => (going (.attestation 0) 0x10040 mapped).perform .outside
      (cellsOf (windowKey 0 0x10040) 8 nonce ++ cellsOf (windowKey 0 0x10048) 8 8192)
    let ok := fun (t : State) => t.goSet (.attestation 0) 0 0x10040 &&
      ((t.hearthFault 0 0 .load (t.mem.dword (windowKey 0 0x10040)) 64).orElse (fun _ => t.hearthFault 0 0 .store 8192 8192)).isNone
    let reads := fun (t : State) => match (t.hearthAsked 0 0 64 64).hearthRead 0 0 64 64 with | .ok _ => true | .error _ => false
    let bad := (s 64).mapDev (fun d => { d with poison := [devKey 0 100] })
    ok (s 64) = true ∧ reads (s 64) = true ∧ ok bad = true ∧ reads bad = false ∧ ok (s (2 ^ 40)) = false ∧ (s (2 ^ 40)).goSet (.attestation 0) 0 0x10040 = true ∧
    (s 64).mem.wf = true ∧ base.goSet (.attestation 5) 5 0x10040 = false ∧
    ((base.perform .outside (cellsOf (windowKey 5 0x10050) 8 (2 ^ 63))).mapDev (fun d =>
      { d with requests := [.attestation 5] })).goSet (.attestation 5) 5 0x10040 = true := by decide +kernel

/-- Queue 3 of die 0, to whose descriptor a control word has been written, then a notify line with two packets posted, and what the Hearth
keeps of it. -/
def queued (control state : Nat) : State :=
  let s := (base.perform .outside (cellsOf (windowKey 0 (0x30000 + 64 * 3 + 8)) 8 control)).mapDev (fun d =>
    { d with requests := [.descriptor 0 3 (BitVec.ofNat 64 control), .notify 0 3 2] })
  if state = 0 then s else s.setQueue { die := 0, queue := 3, state := state, span := [], failed := false, stop := false }

/-- The same queue, running, its descriptor writes done and its ring of two slots at address 0 of mapped memory, the first posted. -/
def scanned : State :=
  let s := mapped.perform .outside (cellsOf (windowKey 0 (0x30000 + 64 * 3)) 8 0 ++ cellsOf (windowKey 0 (0x30000 + 64 * 3 + 8)) 8 0x101
    ++ cellsOf (devKey 0 0) 8 1)
  (s.mapDev (fun d => { d with requests := [.notify 0 3 2] })).setQueue { die := 0, queue := 3, state := 1, span := [], failed := false, stop := false }

theorem witness_QueueEvents :
    let wrote := fun (control state : Nat) => (queued control state).descWrite 0 3 == some (BitVec.ofNat 64 control) && (queued control state).queueState 0 3 == state
    scanned.scanTo 0 3 = some 2 ∧ base.scanTo 0 3 = none ∧ scanned.canStart 0 3 = true ∧ scanned.heedsNotify 0 3 = true ∧
    base.heedsNotify 0 3 = false ∧ (scanned.mapDev (fun d => { d with bringUp := 1 })).hearthsUp = false ∧
    wrote 0x100 0 = true ∧ (0x100 : Word).getLsbD 8 = true ∧ wrote 0x1100 1 = true ∧ (0x1100 : Word).toNat / 2 ^ 12 % 4 = 1 ∧
    wrote 0x2100 2 = true ∧ (0x2100 : Word).toNat / 2 ^ 12 % 4 = 2 ∧ wrote 0x3000 3 = true ∧ base.descWrite 0 3 = none ∧
    base.scanning 0 = [] ∧ base.mem.wf = true ∧ (queued 0x2100 2).descAborts 0 3 = false ∧
    ((queued 0x2100 2).mapDev (fun d => { d with poison := [windowKey 0 (0x30000 + 64 * 3 + 63)] })).descAborts 0 3 = true := by decide +kernel

/-- The scan of the queue: a packet that starts, whose slot is byte 0 of mapped memory; a barrier packet behind a span that has ended well or not; an
empty slot; a ring of a size that is none. -/
theorem witness_QueueEvents_scan :
    let r : QueueRun := { die := 0, queue := 3, state := 1, span := [], failed := false, stop := false }
    let bar := scanned.perform .outside (cellsOf (devKey 0 0) 8 3)
    let failed := bar.setQueue { r with failed := true }
    let empty := scanned.perform .outside (cellsOf (devKey 0 0) 8 2)
    let none' := scanned.perform .outside (cellsOf (windowKey 0 (0x30000 + 64 * 3 + 8)) 8 0x100)
    scanned.nextQueue 0 = some 3 ∧ scanned.queue 0 3 = some r ∧ scanned.canStart 0 3 = true ∧ scanned.mem.wf = true ∧
    isOk (scanned.hearthPlace 0 (scanned.descCtxid 0 3) .store (scanned.slotAt 0 3)) { key := devKey 0 0, repl := false, atom := true } = true ∧
    (match scanned.hearthRead 0 (scanned.descCtxid 0 3) (scanned.slotAt 0 3) 8 with | .ok v => v == 1 | .error _ => false) = true ∧
    (scanned.takeSlot 0 3).2.bar = false ∧ bar.canStart 0 3 = true ∧ (bar.takeSlot 0 3).2.bar = true ∧ failed.canStart 0 3 = true ∧
    (failed.queue 0 3).any (·.failed) = true ∧ empty.slotOk 0 3 = true ∧ empty.descAborts 0 3 = false ∧ (empty.slotHeader 0 3).getLsbD 0 = false ∧
    none'.slotOk 0 3 = false ∧ (scanned.mapDev (fun d => { d with poison := [windowKey 0 (0x30000 + 64 * 3)] })).descAborts 0 3 = true ∧
    (scanned.scanTurn 0 3).descRead 0 3 = 1 ∧ ((scanned.takeSlot 0 3).1.mem.read (devKey 0 0)) = 0 := by decide +kernel

/-- A packet of queue 3 of die 0: dword 0 of its body and the others; its kernel wants `harts` harts a group. -/
def packet (d0 : Word) (rest : List Word) (harts : Nat) : Packet :=
  { id := 9, die := 0, queue := 3, slot := 0, body := d0 :: rest, ctxid := 0, waiting := [], live := [], imaged := [],
    kobj := { noKobj with harts := harts, entry := 0x1000 }, phase := .running, cause := 0, group := 0 }

/-- The machine with one started packet. -/
def launched (p : Packet) (s : State) : State := s.mapDev (fun d => { d with packets := [p] })

theorem witness_PacketEvents :
    (let p := packet 0x40 [0, 64, 0] 1
     let s := launched p mapped
     s.packet 9 4 = some p ∧ s.waitPlace 0 0 64 = some (devKey 0 64) ∧
       waitHolds (field (p.dword 0) 16 3) (s.mem.dword (devKey 0 64)) (p.dword 3) = true ∧ s.aborts (devKey 0 64) 8 = false ∧
       (s.mapDev (fun d => { d with poison := [devKey 0 71] })).aborts (devKey 0 64) 8 = true ∧
       waitHolds (field (p.dword 0) 16 3) ((s.perform .outside (cellsOf (devKey 0 64) 8 5)).mem.dword (devKey 0 64)) (p.dword 3) = false) ∧
    (launched (packet 0x20 [] 1) base).packet 9 2 = some (packet 0x20 [] 1) ∧ (packet 0x20 [] 1).peer = 0 ∧
    (launched (packet 0x10020 [] 1) base).packet 9 2 = some (packet 0x10020 [] 1) ∧ (packet 0x10020 [] 1).peer ≠ 0 ∧
    (launched (packet 0x10020 [] 1) base).dev.ports ≠ 0 ∧ (launched (packet 0x10020 [] 1) (base.mapDev (fun d => { d with ports := 0 }))).dev.ports = 0 ∧
    (let p := packet 0x10 [] 1
     let d := { p with waiting := [(4, 1), (5, 1)], imaged := [1] }
     let i := { p with waiting := [(4, 1)] }
     let n := { p with waiting := [(4, 0)], kobj := { p.kobj with harts := 5 } }
     let f := { i with kobj := { i.kobj with sdmLen := 8 } }
     (launched p base).packet 9 1 = some p ∧ p.waiting = [] ∧ p.live = [] ∧
       d.waiting.find? (fun w => w.2 == 1) = some (4, 1) ∧ d.kobj.harts ≤ ((launched d base).freeHarts 1).length ∧ 1 ∈ d.imaged ∧ 1 ∉ i.imaged ∧
       (launched i base).contextAborts 0 = false ∧
       ((launched i base).mapDev (fun d => { d with poison := [windowKey 0 0x20000] })).contextAborts 0 = true ∧
       (match (launched i base).installImages i 1 with | .ok _ => true | .error _ => false) = true ∧
       (match (launched f base).installImages f 1 with | .ok _ => false | .error _ => true) = true ∧
       ((launched n base).freeHarts 0).length < n.kobj.harts ∧ d.waiting.find? (fun w => w.2 == 0) = none) ∧
    (let p := { packet 0x10 [] 1 with live := [0] }
     let s := (launched p base).mapH (fun h => { h with task := 9, groupid := 0, active := false })
     (0 : Nat) ∈ p.live ∧ s.members 9 (some (BitVec.ofNat 16 0)) ≠ [] ∧
       (s.members 9 (some (BitVec.ofNat 16 0))).all (fun h => !h.active && h.streamsEnded) = true) ∧
    (let p := { packet 0x10 [] 1 with phase := .killing }
     (launched p base).dev.packets.find? (fun o => o.id == p.id && o.phase == .killing) = some p ∧
       ((launched p base).members p.id none).all (fun h => h.convoys.isEmpty) = true ∧
       (let s := (launched p (pushed (.vadd (vv 1 2 3)) true base)).mapH (fun h => { h with task := 9 })
        (s.members p.id none).any (fun h => !h.convoys.isEmpty) = true)) ∧
    (let s := base.mapH (fun h => { h with pc := exitPc })
     s.h.active = true ∧ s.h.stopped = false ∧ s.h.pc = exitPc ∧ s.h.convoys = [] ∧ s.h.squeue = []) := by decide +kernel

/-- A WAIT and a COPY of bytes of mapped memory that pass their checks. -/
theorem witness_QueueEvents_start :
    let w := packet 0x41 [0, 64, 0, 0, 0, 0, 0] 1
    let c := packet 0x21 [0, 64, 128, 8, 0, 0, 0] 1
    w.type = 4 ∧ mapped.packetFault w = 0 ∧ c.type = 2 ∧ mapped.packetFault c = 0 := by decide +kernel

/-- A LAUNCH of one group on die 1, its kernel object all zero at 0x6000: the die there, and lost before and after the start. -/
theorem witness_PacketEvents_launch :
    let p := packet 0x400010 [0, 0x6000, 1] 1
    let lose := fun (s : State) => s.mapDev (fun d => { d with lost := 2 })
    let dealt := fun (s : State) => (List.range (p.dword 3).toNat).filterMap (fun g => (dealCore (s.dealList p.dieMask ((p.dword 0).getLsbD 16)) g).map (fun c => (g, c)))
    p.type = 1 ∧ mapped.packetFault p = 0 ∧ (lose mapped).packetFault p = 0 ∧ dealt mapped = [(0, 512)] ∧
    (dealt mapped).all (fun w => !mapped.dev.lost.getLsbD (w.2 / 512)) = true ∧
    (dealt (lose mapped)).any (fun w => (lose mapped).dev.lost.getLsbD (w.2 / 512)) = true ∧
    (let q := { p with waiting := dealt mapped }
     (lose (launched q mapped)).packet 9 1 = some q ∧ q.waiting.find? (fun w => w.2 == 512) = some (0, 512) ∧
       (lose (launched q mapped)).dev.lost.getLsbD (512 / 512) = true) := by decide +kernel

/-- Requests between dies 0 and 5, performed or on their way, of this version and the one before; the last and first links. -/
theorem witness_FabricEvents :
    let w := written 5 (devKey 5 64) 7
    let s := base.mapDev (fun d => { d with writes := [w, { w with id := 1, group := 1, seq := 1 }] })
    let a := base.mapDev (fun d => { d with writes := [{ w with done := true }] })
    let b := base.mapDev (fun d => { d with writes := [written 0 (devKey 0 64) 3, { w with id := 1, waits := [0] }] })
    BitVec.ofNat 8 1 ≠ s.dev.rver ∧ BitVec.ofNat 8 0 = s.dev.rver ∧ (0 : BitVec 16) = (s.dev.channel 0 5).expect ∧
    s.dev.requestAt 0 5 0 false = some 0 ∧ s.dev.writes[0]? = some w ∧ w.mayPass s.forwarding (s.dev.writes.take 0) = true ∧
    b.dev.requestAt 0 5 0 false = some 1 ∧ (b.dev.writes[1]?).any (fun x => !x.mayPass b.forwarding (b.dev.writes.take 1)) = true ∧
    a.dev.requestAt 0 5 0 true = some 0 ∧ s.dev.requestAt 0 5 0 true = none ∧
    linkAlive base.dev.live 0 1 = true ∧ linkAlive base.dev.live 4 5 = true ∧ linkAlive (base.dev.live &&& 0x3FFF) 4 5 = false ∧
    1 = State.reset.dev.bringUp + 1 ∧ 4 = (base.mapDev (fun d => { d with bringUp := 3 })).dev.bringUp + 1 ∧
    5 = (base.mapDev (fun d => { d with bringUp := 4 })).dev.bringUp + 1 ∧ 3 ≠ base.dev.bringUp + 1 := by
  decide +kernel

/-- External messages: to live memory, with no port, past the end of a device; a flight in the lead of its ROD flow, and one behind it; ports
that fail beside others and alone. -/
theorem witness_FabricEvents_outside :
    let f : Flight := { flow := 7, rod := true, port := 11, die := 5, off := 64, bytes := [1] }
    let s := base.mapDev (fun d => { d with flights := [f, { f with off := 128 }] })
    let none' := base.mapDev (fun d => { d with ports := 0 })
    let last := base.mapDev (fun d => { d with ports := 2048 })
    (5 < 6 ∧ (2 ^ 37 - 1) + [(0 : Byte)].length ≤ 2 ^ 37 ∧ base.dev.ports ≠ 0 ∧ base.dev.lost.getLsbD 5 = false) ∧ none'.dev.ports = 0 ∧
    2 ^ 37 < 2 ^ 37 + [(0 : Byte)].length ∧ base.poisoned (devKey 5 64) 8 = false ∧
    (base.mapDev (fun d => { d with poison := [devKey 5 71] })).poisoned (devKey 5 64) 8 = true ∧
    s.dev.flights[0]? = some f ∧ ((s.dev.flights.take 0).all (fun g => !g.rod || g.flow != 7)) = true ∧
    s.dev.flights[1]? = some { f with off := 128 } ∧ ((s.dev.flights.take 1).all (fun g => !g.rod || g.flow != 7)) = false ∧
    base.dev.ports.getLsbD 11 = true ∧ (base.dev.ports &&& ~~~ (BitVec.ofNat 12 (2 ^ 11))).getLsbD 0 = true ∧
    (last.dev.ports.getLsbD 11 = true ∧ last.dev.ports &&& ~~~ (BitVec.ofNat 12 (2 ^ 11)) = 0) ∧ none'.dev.ports.getLsbD 11 = false := by
  decide +kernel

end Sys2Proof.Tests
end

section
/-!
Decoding a scalar word, a convoy or a non-instruction word from its encoding (R18, R20, R30, R34 to R36): the fields of each packed
format, the decoding of each format, and the bytes of a word. Settles O2 and O3.
-/
namespace Sys2Proof

open BitVec (extractLsb'_append_eq_of_le extractLsb'_append_eq_of_add_le extractLsb'_eq_self)

/-! ### The fields of a packed word (Table 2.1) -/

@[simp] theorem packW3_fields (xd xa xb : XReg) (fn : BitVec 7) :
    let w := packW3 xd xa xb fn
    bitsOf w 28 4 = 0 ∧ bitsOf w 23 5 = xd ∧ bitsOf w 18 5 = xa ∧ bitsOf w 13 5 = xb ∧ bitsOf w 6 7 = fn ∧ bitsOf w 0 6 = 0 := by
  simp (disch := omega) only [bitsOf, packW3, extractLsb'_append_eq_of_le, extractLsb'_append_eq_of_add_le,
    Nat.reduceSub, extractLsb'_eq_self]
  decide

@[simp] theorem packWI_fields (xd xa : XReg) (fn : BitVec 4) (imm : BitVec 14) :
    let w := packWI xd xa fn imm
    bitsOf w 28 4 = 1 ∧ bitsOf w 23 5 = xd ∧ bitsOf w 18 5 = xa ∧ bitsOf w 14 4 = fn ∧ bitsOf w 0 14 = imm := by
  simp (disch := omega) only [bitsOf, packWI, extractLsb'_append_eq_of_le, extractLsb'_append_eq_of_add_le,
    Nat.reduceSub, extractLsb'_eq_self]
  decide

@[simp] theorem packWI_shift_fields (xd xa : XReg) (fn : BitVec 4) (n : BitVec 6) :
    let w := packWI xd xa fn (0#8 ++ n)
    bitsOf w 6 8 = 0 ∧ bitsOf w 0 6 = n := by
  simp (disch := omega) only [bitsOf, packWI, extractLsb'_append_eq_of_le, extractLsb'_append_eq_of_add_le,
    Nat.reduceSub, extractLsb'_eq_self]
  decide

@[simp] theorem packOff_fields (major : BitVec 4) (xd xa : XReg) (fn : BitVec 3) (off : BitVec 15) :
    let w := packOff major xd xa fn off
    bitsOf w 28 4 = major ∧ bitsOf w 23 5 = xd ∧ bitsOf w 18 5 = xa ∧ bitsOf w 15 3 = fn ∧ bitsOf w 0 15 = off := by
  simp (disch := omega) only [bitsOf, packOff, extractLsb'_append_eq_of_le, extractLsb'_append_eq_of_add_le,
    Nat.reduceSub, extractLsb'_eq_self]
  decide

theorem upper_fields (major : BitVec 4) (xd : XReg) (imm : BitVec 23) :
    let w : Word32 := major ++ xd ++ imm
    bitsOf w 28 4 = major ∧ bitsOf w 23 5 = xd ∧ bitsOf w 0 23 = imm := by
  simp (disch := omega) only [bitsOf, extractLsb'_append_eq_of_le, extractLsb'_append_eq_of_add_le,
    Nat.reduceSub, extractLsb'_eq_self]
  decide

theorem jalr_fields (xd xa : XReg) (off : BitVec 18) :
    let w : Word32 := 0x6#4 ++ xd ++ xa ++ off
    bitsOf w 28 4 = 6 ∧ bitsOf w 23 5 = xd ∧ bitsOf w 18 5 = xa ∧ bitsOf w 0 18 = off := by
  simp (disch := omega) only [bitsOf, extractLsb'_append_eq_of_le, extractLsb'_append_eq_of_add_le,
    Nat.reduceSub, extractLsb'_eq_self]
  decide

@[simp] theorem packWA_fields (xd xa xb : XReg) (op : BitVec 4) (z : AmoSize) (o : AmoOrder) (p : Scope) :
    let w := packWA xd xa xb op z o p
    bitsOf w 28 4 = 9 ∧ bitsOf w 23 5 = xd ∧ bitsOf w 18 5 = xa ∧ bitsOf w 13 5 = xb ∧ bitsOf w 9 4 = op ∧ bitsOf w 8 1 = z.code ∧
    bitsOf w 5 3 = o.code ∧ bitsOf w 2 3 = p.code ∧ bitsOf w 0 2 = 0 := by
  simp (disch := omega) only [bitsOf, packWA, extractLsb'_append_eq_of_le, extractLsb'_append_eq_of_add_le,
    Nat.reduceSub, extractLsb'_eq_self]
  decide

@[simp] theorem packCsr_fields (fn : BitVec 4) (xd xa : XReg) (csr : BitVec 12) :
    let w := packCsr fn xd xa csr
    bitsOf w 28 4 = 10 ∧ bitsOf w 24 4 = fn ∧ bitsOf w 19 5 = xd ∧ bitsOf w 14 5 = xa ∧ bitsOf w 2 12 = csr ∧ bitsOf w 0 2 = 0 := by
  simp (disch := omega) only [bitsOf, packCsr, extractLsb'_append_eq_of_le, extractLsb'_append_eq_of_add_le,
    Nat.reduceSub, extractLsb'_eq_self]
  decide

/-- A field of two parts that both hold zero holds zero. -/
theorem bitsOf_eq_zero_of_parts (w : Word32) (lo m n : Nat) (hhi : bitsOf w (lo + n) m = 0) (hlo : bitsOf w lo n = 0) :
    bitsOf w lo (m + n) = 0 := by
  calc bitsOf w lo (m + n)
    _ = bitsOf w (lo + n) m ++ bitsOf w lo n := (BitVec.extractLsb'_append_extractLsb'_eq_extractLsb' rfl).symm
    _ = 0 := by rw [hhi, hlo]; exact BitVec.zero_append_zero

@[simp] theorem packWY_fields (fn : BitVec 4) (xd xa : XReg) (sub : BitVec 14) :
    let w := packWY fn xd xa sub
    bitsOf w 28 4 = 10 ∧ bitsOf w 24 4 = fn ∧ bitsOf w 19 5 = xd ∧ bitsOf w 14 5 = xa ∧ bitsOf w 0 14 = sub := by
  simp (disch := omega) only [bitsOf, packWY, extractLsb'_append_eq_of_le, extractLsb'_append_eq_of_add_le,
    Nat.reduceSub, extractLsb'_eq_self]
  decide

/-- The fields of a WY word that lie within its sub-field. -/
@[simp] theorem packWY_sub_fields (fn : BitVec 4) (xd xa : XReg) (k p : BitVec 3) :
    let w := packWY fn xd xa (k ++ p ++ 0#8)
    bitsOf w 11 3 = k ∧ bitsOf w 8 3 = p ∧ bitsOf w 0 8 = 0 := by
  simp (disch := omega) only [bitsOf, packWY, extractLsb'_append_eq_of_le, extractLsb'_append_eq_of_add_le,
    Nat.reduceSub, extractLsb'_eq_self]
  decide

@[simp] theorem packWY_registers_zero (fn : BitVec 4) (sub : BitVec 14) : bitsOf (packWY fn 0#5 0#5 sub) 14 10 = 0 :=
  bitsOf_eq_zero_of_parts _ 14 5 5 (by simp) (by simp)

@[simp] theorem packWY_operands_zero (fn : BitVec 4) : bitsOf (packWY fn 0#5 0#5 0#14) 0 24 = 0 :=
  bitsOf_eq_zero_of_parts _ 0 10 14 (by simp) (by simp)

@[simp] theorem packWP_fields (kind : BitVec 2) (xa : XReg) (stages : BitVec 3) (rot farm : Bool) (len : BitVec 16) :
    let w := packWP kind xa stages rot farm len
    bitsOf w 28 4 = 11 ∧ bitsOf w 26 2 = kind ∧ bitsOf w 21 5 = xa ∧ bitsOf w 18 3 = stages ∧ bitsOf w 17 1 = BitVec.ofBool rot ∧
    bitsOf w 16 1 = BitVec.ofBool farm ∧ bitsOf w 0 16 = len := by
  simp (disch := omega) only [bitsOf, packWP, extractLsb'_append_eq_of_le, extractLsb'_append_eq_of_add_le,
    Nat.reduceSub, extractLsb'_eq_self]
  decide

@[simp] theorem packLctl_fields (fn : BitVec 4) (sub : BitVec 22) :
    let w := packLctl fn sub
    bitsOf w 28 4 = 11 ∧ bitsOf w 26 2 = 2 ∧ bitsOf w 22 4 = fn := by
  simp (disch := omega) only [bitsOf, packLctl, extractLsb'_append_eq_of_le, extractLsb'_append_eq_of_add_le,
    Nat.reduceSub, extractLsb'_eq_self]
  decide

@[simp] theorem packLctl_lexit_fields (fn kn : BitVec 4) :
    let w := packLctl fn (kn ++ 0#18)
    bitsOf w 18 4 = kn ∧ bitsOf w 0 18 = 0 := by
  simp (disch := omega) only [bitsOf, packLctl, extractLsb'_append_eq_of_le, extractLsb'_append_eq_of_add_le,
    Nat.reduceSub, extractLsb'_eq_self]
  decide

@[simp] theorem packLctl_lbrk_fields (fn : BitVec 4) (lv : BitVec 2) (off : BitVec 16) :
    let w := packLctl fn (lv ++ 0#4 ++ off)
    bitsOf w 20 2 = lv ∧ bitsOf w 16 4 = 0 ∧ bitsOf w 0 16 = off := by
  simp (disch := omega) only [bitsOf, packLctl, extractLsb'_append_eq_of_le, extractLsb'_append_eq_of_add_le,
    Nat.reduceSub, extractLsb'_eq_self]
  decide

@[simp] theorem packLctl_lpop_fields (fn : BitVec 4) (lv : BitVec 2) :
    let w := packLctl fn (lv ++ 0#20)
    bitsOf w 20 2 = lv ∧ bitsOf w 0 20 = 0 := by
  simp (disch := omega) only [bitsOf, packLctl, extractLsb'_append_eq_of_le, extractLsb'_append_eq_of_add_le,
    Nat.reduceSub, extractLsb'_eq_self]
  decide

@[simp] theorem packWQ_fields (fn : BitVec 5) (q : WqArgs) :
    let w := packWQ fn q
    bitsOf w 28 4 = 12 ∧ bitsOf w 23 5 = fn ∧ bitsOf w 19 4 = q.qn ∧ bitsOf w 13 6 = q.tn ∧ bitsOf w 8 5 = q.xa ∧
    bitsOf w 3 5 = q.xb ∧ bitsOf w 0 3 = q.mode := by
  simp (disch := omega) only [bitsOf, packWQ, extractLsb'_append_eq_of_le, extractLsb'_append_eq_of_add_le,
    Nat.reduceSub, extractLsb'_eq_self]
  decide

@[simp] theorem packField_fields (fn : BitVec 3) (xd xa : XReg) (pos len : BitVec 6) :
    let w := packField fn xd xa pos len
    bitsOf w 28 4 = 13 ∧ bitsOf w 25 3 = fn ∧ bitsOf w 20 5 = xd ∧ bitsOf w 15 5 = xa ∧ bitsOf w 9 6 = pos ∧ bitsOf w 3 6 = len ∧
    bitsOf w 0 3 = 0 := by
  simp (disch := omega) only [bitsOf, packField, extractLsb'_append_eq_of_le, extractLsb'_append_eq_of_add_le,
    Nat.reduceSub, extractLsb'_eq_self]
  decide

@[simp] theorem packFunnel_fields (fn : BitVec 3) (xd xa xb : XReg) (shift : BitVec 6) :
    let w := packFunnel fn xd xa xb shift
    bitsOf w 28 4 = 13 ∧ bitsOf w 25 3 = fn ∧ bitsOf w 20 5 = xd ∧ bitsOf w 15 5 = xa ∧ bitsOf w 10 5 = xb ∧ bitsOf w 4 6 = shift ∧
    bitsOf w 0 4 = 0 := by
  simp (disch := omega) only [bitsOf, packFunnel, extractLsb'_append_eq_of_le, extractLsb'_append_eq_of_add_le,
    Nat.reduceSub, extractLsb'_eq_self]
  decide

theorem vsetvli_fields (xd xa : XReg) (sew fmt blk : BitVec 3) (rm : BitVec 2) :
    let w : Word32 := 0xC#4 ++ 0x18#5 ++ sew ++ fmt ++ blk ++ 0#1 ++ xa ++ xd ++ rm ++ 0#1
    bitsOf w 28 4 = 12 ∧ bitsOf w 23 5 = 0x18 ∧ bitsOf w 20 3 = sew ∧ bitsOf w 17 3 = fmt ∧ bitsOf w 14 3 = blk ∧ bitsOf w 13 1 = 0 ∧
    bitsOf w 8 5 = xa ∧ bitsOf w 3 5 = xd ∧ bitsOf w 1 2 = rm ∧ bitsOf w 0 1 = 0 := by
  simp (disch := omega) only [bitsOf, extractLsb'_append_eq_of_le, extractLsb'_append_eq_of_add_le,
    Nat.reduceSub, extractLsb'_eq_self]
  decide

theorem bextv_fields (xd xa xb : XReg) :
    let w : Word32 := 0xD#4 ++ 5#3 ++ xd ++ xa ++ xb ++ 0#10
    bitsOf w 28 4 = 13 ∧ bitsOf w 25 3 = 5 ∧ bitsOf w 20 5 = xd ∧ bitsOf w 15 5 = xa ∧ bitsOf w 10 5 = xb ∧ bitsOf w 0 10 = 0 := by
  simp (disch := omega) only [bitsOf, extractLsb'_append_eq_of_le, extractLsb'_append_eq_of_add_le,
    Nat.reduceSub, extractLsb'_eq_self]
  decide

@[simp] theorem ofBool_beq_one (b : Bool) : (BitVec.ofBool b == 1#1) = b := by cases b <;> rfl

@[simp] theorem packHeader_major (h : ConvoyHeader) : bitsOf (packHeader h) 28 4 = 15 := by
  simp (disch := omega) only [bitsOf, packHeader, extractLsb'_append_eq_of_le, Nat.reduceSub, extractLsb'_eq_self]
  rfl

@[simp] theorem headerOf_packHeader (h : ConvoyHeader) : headerOf (packHeader h) = h := by
  simp (disch := omega) only [headerOf, bitsOf, packHeader, extractLsb'_append_eq_of_le, extractLsb'_append_eq_of_add_le,
    Nat.reduceSub, extractLsb'_eq_self, BitVec.ofNat_eq_ofNat, ofBool_beq_one]

/-! ### The codes of the enumerated operands (Table 3.2) -/

@[simp] theorem scopeOf_code (p : Scope) : scopeOf p.code.toNat = some p := by cases p <;> rfl

@[simp] theorem orderOf_code (o : AmoOrder) : orderOf o.code.toNat = some o := by cases o <;> rfl

@[simp] theorem fenceOf_code (k : FenceKind) : fenceOf k.code.toNat = some k := by cases k <;> rfl

@[simp] theorem sizeOf_code (z : AmoSize) : (if z.code = 0#1 then .w else .d) = z := by cases z <;> rfl

/-! ### Decoding each format -/

section Formats
variable {xd xa xb : XReg}

theorem decodeWord_packW3 {fn : BitVec 7} {c} (h : tableW3 fn.toNat = some c) :
    decodeWord (packW3 xd xa xb fn) = c xd xa xb := by
  simp [decodeWord, decodeW3, keepIf, h]

theorem decodeWord_packW3_two {fn : BitVec 7} {c} (h3 : tableW3 fn.toNat = none) (h2 : tableW3Two fn.toNat = some c) :
    decodeWord (packW3 xd xa 0 fn) = c xd xa := by
  simp [decodeWord, decodeW3, keepIf, h3, h2]

theorem decodeWord_packWI {fn imm c} (h : tableWI fn.toNat = some c) : decodeWord (packWI xd xa fn imm) = c xd xa imm := by
  simp [decodeWord, decodeWI, h]

theorem decodeWord_packWI_shift {fn n c} (hi : tableWI fn.toNat = none) (hs : tableShift fn.toNat = some c) :
    decodeWord (packWI xd xa fn (0#8 ++ n)) = c xd xa n := by
  simp [decodeWord, decodeWI, keepIf, hi, hs]

theorem decodeOff_packOff {t major fn off c} (h : t fn.toNat = some c) : decodeOff t (packOff major xd xa fn off) = c xd xa off := by
  simp [decodeOff, h]

theorem decodeWord_load {fn off c} (h : tableWL fn.toNat = some c) : decodeWord (packOff 2 xd xa fn off) = c xd xa off := by
  simp [decodeWord, decodeOff_packOff h]

theorem decodeWord_store {fn off c} (h : tableWS fn.toNat = some c) : decodeWord (packOff 3 xd xa fn off) = c xd xa off := by
  simp [decodeWord, decodeOff_packOff h]

theorem decodeWord_branch {fn off c} (h : tableWB fn.toNat = some c) : decodeWord (packOff 4 xd xa fn off) = c xd xa off := by
  simp [decodeWord, decodeOff_packOff h]

theorem decodeWord_jal (off : BitVec 23) : decodeWord (0x5#4 ++ xd ++ off) = .jal xd off := by
  simp [decodeWord, upper_fields]

theorem decodeWord_lui (imm : BitVec 23) : decodeWord (0x7#4 ++ xd ++ imm) = .lui xd imm := by
  simp [decodeWord, upper_fields]

theorem decodeWord_addpc (imm : BitVec 23) : decodeWord (0x8#4 ++ xd ++ imm) = .addpc xd imm := by
  simp [decodeWord, upper_fields]

theorem decodeWord_jalr (off : BitVec 18) : decodeWord (0x6#4 ++ xd ++ xa ++ off) = .jalr xd xa off := by
  simp [decodeWord, jalr_fields]

theorem decodeWord_packWA {op : BitVec 4} {z o p c} (h : tableWA op.toNat = some c) :
    decodeWord (packWA xd xa xb op z o p) = c xd xa xb z o p := by
  simp [decodeWord, decodeWA, keepIf, h]

theorem decodeWord_packCsr {fn csr c} (h : tableCsr fn.toNat = some c) : decodeWord (packCsr fn xd xa csr) = c xd xa csr := by
  simp [decodeWord, decodeWY, keepIf, h]

theorem decodeWord_plain {fn i} (hc : tableCsr fn.toNat = none) (hp : tablePlain fn.toNat = some i) :
    decodeWord (packWY fn 0 0 0) = i := by
  simp [decodeWord, decodeWY, keepIf, hc, hp]

theorem decodeWord_trap (code : BitVec 14) : decodeWord (packWY 4 0 0 code) = .trap code := by
  simp [decodeWord, decodeWY, keepIf, tableCsr, tablePlain]

theorem decodeWord_fence (k : FenceKind) (p : Scope) :
    decodeWord (packWY 6 0 0 (k.code ++ p.code ++ 0#8)) = .fence k p := by
  simp [decodeWord, decodeWY, keepIf, tableCsr, tablePlain]

theorem decodeWord_bar (p : Scope) : decodeWord (packWY 7 0 xa (0#3 ++ p.code ++ 0#8)) = .bar xa p := by
  simp [decodeWord, decodeWY, keepIf, tableCsr, tablePlain]

theorem decodeWord_wfe : decodeWord (packWY 8 0 xa 0) = .wfe xa := by
  simp [decodeWord, decodeWY, keepIf, tableCsr, tablePlain]

theorem decodeWord_loop (n rot len) : decodeWord (packWP 0 xa n rot false len) = .loop xa n rot len := by
  simp [decodeWord, decodeWP, keepIf]

theorem decodeWord_loops (n rot farm len) : decodeWord (packWP 1 xa n rot farm len) = .loops xa n rot farm len := by
  simp [decodeWord, decodeWP]

theorem decodeWord_lexit (kn : BitVec 4) : decodeWord (packLctl 0 (kn ++ 0#18)) = .lexit kn := by
  simp [decodeWord, decodeWP, keepIf]

theorem decodeWord_lbrk (lv : BitVec 2) (off : BitVec 16) : decodeWord (packLctl 1 (lv ++ 0#4 ++ off)) = .lbrk lv off := by
  simp [decodeWord, decodeWP, keepIf]

theorem decodeWord_lpop (lv : BitVec 2) : decodeWord (packLctl 2 (lv ++ 0#20)) = .lpop lv := by
  simp [decodeWord, decodeWP, keepIf]

theorem decodeWord_packWQ {fn q c} (h : tableWQ fn.toNat = some c) : decodeWord (packWQ fn q) = c q := by
  simp [decodeWord, decodeWQ, h]

theorem decodeWord_packField {fn pos len c} (h : tableField fn.toNat = some c) :
    decodeWord (packField fn xd xa pos len) = c xd xa pos len := by
  simp [decodeWord, decodeWF, keepIf, h]

theorem decodeWord_packFunnel {fn n c} (hb : tableField fn.toNat = none) (hf : tableFunnel fn.toNat = some c) :
    decodeWord (packFunnel fn xd xa xb n) = c xd xa xb n := by
  simp [decodeWord, decodeWF, keepIf, hb, hf]

theorem decodeWord_vsetvli (sew fmt blk : BitVec 3) (rm : BitVec 2) :
    decodeWord (0xC#4 ++ 0x18#5 ++ sew ++ fmt ++ blk ++ 0#1 ++ xa ++ xd ++ rm ++ 0#1) = .vsetvli xd xa sew fmt blk rm := by
  simp [decodeWord, decodeWQ, keepIf, tableWQ, vsetvli_fields, -BitVec.reduceAppend]

theorem decodeWord_bextv : decodeWord (0xD#4 ++ 5#3 ++ xd ++ xa ++ xb ++ 0#10) = .bextv xd xa xb := by
  simp [decodeWord, decodeWF, keepIf, tableField, tableFunnel, bextv_fields, -BitVec.reduceAppend]

theorem decodeWord_packHeader (h : ConvoyHeader) : decodeWord (packHeader h) = .convoy h [] := by
  simp [decodeWord]

end Formats

/-- What `decodeWord` gives for an instruction's first word: the instruction, a convoy without its vector words. -/
def Instr.bare : Instr → Instr
  | .convoy h _ => .convoy h []
  | i => i

theorem Instr.bare_of_not_convoy {i : Instr} (hi : ∀ h ws, i ≠ .convoy h ws) : i.bare = i := by
  unfold Instr.bare
  split
  · exact absurd rfl (hi _ _)
  · rfl

theorem decodeWord_of_encodeWord {i : Instr} {w : Word32} (hok : scalarOk i = true) (h : encodeWord i = some w) :
    decodeWord w = i.bare := by
  cases i
  case add | sub | and | or | xor | sll | srl | sra | slt | sltu | min | max | minu | maxu | andn | mul | mulh | mulhu | div | divu
      | rem | remu | vsetvl =>
    cases h; exact decodeWord_packW3 rfl
  case clz | ctz | popc => cases h; exact decodeWord_packW3_two rfl rfl
  case addi | andi | ori | xori | slti | sltiu => cases h; exact decodeWord_packWI rfl
  case slli | srli | srai => cases h; exact decodeWord_packWI_shift rfl rfl
  case ldb | ldh | ldw | ldd | ldbu | ldhu | ldwu => cases h; exact decodeWord_load rfl
  case stb | sth | stw | std => cases h; exact decodeWord_store rfl
  case beq | bne | blt | bge | bltu | bgeu => cases h; exact decodeWord_branch rfl
  case jal off => cases h; exact decodeWord_jal off
  case jalr off => cases h; exact decodeWord_jalr off
  case lui imm => cases h; exact decodeWord_lui imm
  case addpc imm => cases h; exact decodeWord_addpc imm
  case amoswap | amoadd | amoand | amoor | amoxor | amomin | amomax | amominu | amomaxu | amocas => cases h; exact decodeWord_packWA rfl
  case csrrw | csrrs | csrrc | csrrwi => cases h; exact decodeWord_packCsr rfl
  case eret | yield | snap | brk | ifence => cases h; exact decodeWord_plain rfl rfl
  case trap code => cases h; exact decodeWord_trap code
  case fence k p => cases h; exact decodeWord_fence k p
  case bar p => cases h; exact decodeWord_bar p
  case wfe => cases h; exact decodeWord_wfe
  case loop => cases h; exact decodeWord_loop ..
  case loops => cases h; exact decodeWord_loops ..
  case lexit kn => cases h; exact decodeWord_lexit kn
  case lbrk lv off => cases h; exact decodeWord_lbrk lv off
  case lpop lv => cases h; exact decodeWord_lpop lv
  case qld | qst | qred | qfold | qnvm | qwait | qavail | qclose | qsave | qrest | talloc | tfree | tstat | tset | tred =>
    cases h; exact decodeWord_packWQ rfl
  case vsetvli => cases h; exact decodeWord_vsetvli ..
  case bext | bextu | bins => cases h; exact decodeWord_packField rfl
  case fshl | fshr => cases h; exact decodeWord_packFunnel rfl rfl
  case bextv => cases h; exact decodeWord_bextv
  case convoy hd ws => cases h; exact decodeWord_packHeader hd
  case nonInstructionEncoding => cases h; exact eq_of_beq hok
  all_goals cases h

/-! ### Bytes (R14, R15) -/

theorem word32_extract {n : Nat} (w : BitVec n) (k : Nat) :
    word32 (w.extractLsb' k 8) (w.extractLsb' (k + 8) 8) (w.extractLsb' (k + 16) 8) (w.extractLsb' (k + 24) 8) = w.extractLsb' k 32 := by
  unfold word32
  rw [BitVec.extractLsb'_append_extractLsb'_eq_extractLsb' (by omega), BitVec.extractLsb'_append_extractLsb'_eq_extractLsb' (by omega),
    BitVec.extractLsb'_append_extractLsb'_eq_extractLsb' (by omega)]

theorem bytesOf_four (w : Word32) :
    bytesOf 4 w.toNat = [w.extractLsb' 0 8, w.extractLsb' (0 + 8) 8, w.extractLsb' (0 + 16) 8, w.extractLsb' (0 + 24) 8] := by
  simp [bytesOf, BitVec.extractLsb', Nat.shiftRight_eq_div_pow, Nat.div_div_eq_div_mul]

theorem bytesOf_eight (w : Word) :
    bytesOf 8 w.toNat =
      [w.extractLsb' 0 8, w.extractLsb' (0 + 8) 8, w.extractLsb' (0 + 16) 8, w.extractLsb' (0 + 24) 8,
        w.extractLsb' 32 8, w.extractLsb' (32 + 8) 8, w.extractLsb' (32 + 16) 8, w.extractLsb' (32 + 24) 8] := by
  simp [bytesOf, BitVec.extractLsb', Nat.shiftRight_eq_div_pow, Nat.div_div_eq_div_mul]

theorem takeWords_flatMap_bytesOf (ws : List Word) (rest : List Byte) :
    takeWords ws.length (ws.flatMap (fun v => bytesOf 8 v.toNat) ++ rest) = some (ws, rest) := by
  induction ws with
  | nil => rfl
  | cons w ws ih =>
    have hw : word32 (w.extractLsb' 32 8) (w.extractLsb' (32 + 8) 8) (w.extractLsb' (32 + 16) 8) (w.extractLsb' (32 + 24) 8) ++
        word32 (w.extractLsb' 0 8) (w.extractLsb' (0 + 8) 8) (w.extractLsb' (0 + 16) 8) (w.extractLsb' (0 + 24) 8) = w := by
      rw [word32_extract, word32_extract]
      exact (BitVec.extractLsb'_append_extractLsb'_eq_extractLsb' rfl).trans extractLsb'_eq_self
    rw [List.flatMap_cons, bytesOf_eight, List.length_cons, List.append_assoc]
    simp only [List.cons_append, List.nil_append, takeWords, ih, hw]

/-! ### Decoding the bytes of an instruction -/

/-- What `decode` makes of the bytes `bs` behind the first word, once that word is decoded. -/
def withWords (bs : List Byte) : Instr → Option (Instr × List Byte)
  | .convoy h _ => if h.ok then (takeWords h.count bs).map (fun p => (.convoy h p.1, p.2)) else some (.convoy h [], bs)
  | i => some (i, bs)

theorem withWords_of_not_convoy {i : Instr} (hi : ∀ h ws, i ≠ .convoy h ws) (bs : List Byte) : withWords bs i = some (i, bs) := by
  unfold withWords
  split
  · exact absurd rfl (hi _ _)
  · rfl

theorem decode_bytesOf (w : Word32) (bs : List Byte) : decode (bytesOf 4 w.toNat ++ bs) = withWords bs (decodeWord w) := by
  rw [bytesOf_four]
  simp only [List.cons_append, List.nil_append, decode, word32_extract, extractLsb'_eq_self]
  rfl

theorem decode_convoy {h : ConvoyHeader} {ws : List Word} (hok : h.ok = true) (hlen : ws.length = h.count) (rest : List Byte) :
    decode (bytesOf 4 (packHeader h).toNat ++ ws.flatMap (fun v => bytesOf 8 v.toNat) ++ rest) = some (.convoy h ws, rest) := by
  rw [List.append_assoc, decode_bytesOf, decodeWord_packHeader]
  simp [withWords, hok, ← hlen, takeWords_flatMap_bytesOf]

theorem encode_of_not_convoy {i : Instr} (hi : ∀ h ws, i ≠ .convoy h ws) : encode i = (encodeWord i).map (fun w => bytesOf 4 w.toNat) := by
  unfold encode
  split
  · simp [*]
  · split
    · exact absurd rfl (hi _ _)
    · simp [*]

theorem Instr.scalarOk_of_wf {i : Instr} (h : i.wf = true) : scalarOk i = true := by
  simp only [Instr.wf, Bool.and_eq_true] at h
  exact h.1.1.1

/-- A well-formed convoy has a header that passes, and as many words as it says. -/
theorem convoy_of_scalarOk {h : ConvoyHeader} {ws : List Word} (hok : scalarOk (.convoy h ws) = true) :
    h.ok = true ∧ ws.length = h.count := by
  simp only [scalarOk, convoyOk, Bool.and_eq_true, beq_iff_eq] at hok
  exact hok.1.1

/-- Settles O2: every sample word is decoded by computation. -/
theorem sampleWordsDecode : Obligations.SampleWordsDecode := by
  unfold Obligations.SampleWordsDecode
  decide

/-- Settles O3, by the formats for the word and by induction on the vector words of a convoy. -/
theorem wordsRoundTrip : Obligations.WordsRoundTrip := by
  unfold Obligations.WordsRoundTrip
  intro i bs rest hwf henc
  have hok := Instr.scalarOk_of_wf hwf
  by_cases hconvoy : ∃ h ws, i = .convoy h ws
  · obtain ⟨h, ws, rfl⟩ := hconvoy
    cases henc
    obtain ⟨hhdr, hlen⟩ := convoy_of_scalarOk hok
    exact decode_convoy hhdr hlen rest
  · have hi : ∀ h ws, i ≠ .convoy h ws := fun h ws e => hconvoy ⟨h, ws, e⟩
    rw [encode_of_not_convoy hi, Option.map_eq_some_iff] at henc
    obtain ⟨w, hw, rfl⟩ := henc
    rw [decode_bytesOf, decodeWord_of_encodeWord hok hw, Instr.bare_of_not_convoy hi, withWords_of_not_convoy hi]

end Sys2Proof
end

section
/-!
Decoding a vector word from its encoding under its unit (R21 to R25, R37). Settles O4.
-/
namespace Sys2Proof

open BitVec (extractLsb'_append_eq_of_le extractLsb'_append_eq_of_add_le extractLsb'_eq_self)

@[simp] theorem vargsOf_packVec (op : BitVec 7) (v : VArgs) : vargsOf (packVec op v) = v := by
  simp (disch := omega) only [vargsOf, packVec, extractLsb'_append_eq_of_le, extractLsb'_append_eq_of_add_le, Nat.reduceSub,
    extractLsb'_eq_self, BitVec.ofNat_eq_ofNat, ofBool_beq_one]

@[simp] theorem op7Of_packVec (op : BitVec 7) (v : VArgs) : op7Of (packVec op v) = op.toNat := by
  simp (disch := omega) only [op7Of, packVec, extractLsb'_append_eq_of_le, Nat.reduceSub, extractLsb'_eq_self]

/-- Table 3.3 read both ways: the row of a vector instruction's unit and op7 is the instruction's own. -/
theorem vecRow_of_vecCode {i : Instr} {u op : Nat} {v : VArgs} (h : vecCode i = some (u, op, v)) :
    op < 2 ^ 7 ∧ ∃ r, vecRow u op = some r ∧ r.ctor v = i := by
  cases i
  all_goals cases h
  all_goals exact ⟨by decide, _, rfl, rfl⟩

/-- A vector word that step 7 of Table 2.6 accepts is the instruction it was packed from. -/
theorem vecInstr_packVec {i : Instr} {u op : Nat} {v : VArgs} (h : vecCode i = some (u, op, v))
    (hsome : (vecInstr u (packVec (BitVec.ofNat 7 op) v)).isSome = true) : vecInstr u (packVec (BitVec.ofNat 7 op) v) = some i := by
  obtain ⟨hop, r, hr, hi⟩ := vecRow_of_vecCode h
  have h7 : (BitVec.ofNat 7 op).toNat = op := by rw [BitVec.toNat_ofNat, Nat.mod_eq_of_lt hop]
  simp only [vecInstr, op7Of_packVec, vargsOf_packVec, h7, hr, hi] at hsome ⊢
  split at hsome
  · simp [*]
  · cases hsome

/-- A vector word under its unit is refused by neither step 6 nor step 7 of Table 2.6 where `vecFault` names none. -/
theorem vecFault_eq_none_iff {i : Instr} {u : Nat} {w : Word} (h : encodeVec i = some (u, w)) :
    vecFault i = none ↔ encFault u w = false ∧ (vecInstr u w).isSome = true := by
  simp only [vecFault, h]
  cases encFault u w <;> cases vecInstr u w <;> simp

theorem Instr.vecFault_of_wf {i : Instr} (h : i.wf = true) : vecFault i = none := by
  simp only [Instr.wf, Bool.and_eq_true, Option.isNone_iff_eq_none] at h
  exact h.1.2

/-- Settles O4, by the fields of a packed vector word and the rows of Table 3.3. -/
theorem vectorWordsRoundTrip : Obligations.VectorWordsRoundTrip := by
  unfold Obligations.VectorWordsRoundTrip
  intro i unit w hwf henc
  obtain ⟨henc', hsome⟩ := (vecFault_eq_none_iff henc).mp (Instr.vecFault_of_wf hwf)
  obtain ⟨⟨u, op, v⟩, hcode, hpack⟩ := Option.map_eq_some_iff.mp henc
  cases hpack
  exact ⟨henc', vecInstr_packVec hcode hsome⟩

end Sys2Proof
end

section
/-!
How a cause is raised (R288, R290, R302), and the causes that TRAP, BRK and a word that is no instruction raise (R30, R90).
Settles O25.
-/
namespace Sys2Proof.Machine

/-! ### The three ends of a cause that is raised -/

/-- Does a debugger take the cause instead of the trap handler (R302)? -/
def State.debuggerTakes (s : State) (c : Cause) : Prop := s.h.trap.dbga = true ∧ (c = .brk ∨ c = .dbg)

theorem State.raise_of_debugger {s : State} {t : TrapInfo} (hd : s.debuggerTakes t.cause) :
    s.raise t = s.dropAhead.mapH (fun h => { h with halted := true }) := if_pos hd

theorem State.raise_of_enabled {s : State} {t : TrapInfo} (hd : ¬ s.debuggerTakes t.cause) (hte : s.h.trap.te = true) :
    s.raise t = s.discardQueues.seal.enter t := (if_neg hd).trans (if_pos hte)

theorem State.raise_of_disabled {s : State} {t : TrapInfo} (hd : ¬ s.debuggerTakes t.cause) (hte : s.h.trap.te = false) :
    s.raise t = s.fatal t := (if_neg hd).trans (if_neg (by simp [hte]))

/-- An instruction that raises a cause which no debugger takes enters the handler where traps are enabled, and is fatal where they are
not. -/
theorem State.exec_raises {s : State} {i : Instr} {c : Cause} {v : Word} (he : exec i s = s.trapped c v) (hd : ¬ s.debuggerTakes c) :
    (s.h.trap.te = true → exec i s = .next (s.discardQueues.seal.enter (s.refusal c v))) ∧
    (s.h.trap.te = false → exec i s = .next (s.fatal (s.refusal c v))) :=
  ⟨fun h => he.trans (congrArg _ (State.raise_of_enabled hd h)), fun h => he.trans (congrArg _ (State.raise_of_disabled hd h))⟩

/-! ### What the instructions raise -/

theorem exec_trap (code : BitVec 14) (s : State) : exec (.trap code) s = s.trapped .trap (code.setWidth 64) := rfl

theorem exec_brk (s : State) : exec .brk s = s.trapped .brk 0 := rfl

/-- The word is a LOOP whose body length is not 0 and whose FARM bit is set: the one word that is refused with LNEST (R30). -/
def loopWithFarm (w : Word32) : Prop := w.toNat / 2 ^ 26 = 0x2C ∧ w.getLsbD 16 = true ∧ w.toNat % 2 ^ 16 ≠ 0

theorem bitAt_toNat {n : Nat} (w : BitVec n) (i : Nat) : bitAt w.toNat i = w.getLsbD i := by
  rw [BitVec.getLsbD, Nat.testBit_eq_decide_div_mod_eq]
  rfl

theorem exec_nonInstruction_lnest {w : Word32} (h : loopWithFarm w) (s : State) :
    exec (.nonInstructionEncoding w) s = s.trapped .lnest 0 :=
  if_pos (by rw [bitAt_toNat]; exact h)

theorem exec_nonInstruction_ill {w : Word32} (h : ¬ loopWithFarm w) (s : State) :
    exec (.nonInstructionEncoding w) s = s.trapped .ill s.h.pc :=
  if_neg (by rw [bitAt_toNat]; exact h)

/-- Settles O25, from what each word raises and the three ends of a cause. -/
theorem synchronousCauses : Obligations.SynchronousCauses := by
  unfold Obligations.SynchronousCauses
  intro s code w info raised
  have other : ∀ c : Cause, c ≠ .brk → c ≠ .dbg → ¬ s.debuggerTakes c := fun c hb hg h => h.2.elim hb hg
  refine ⟨?_, fun hn => ?_, fun hop hfarm hlen => ?_, fun hd => ?_, fun hd => ?_⟩
  · exact State.exec_raises (exec_trap code s) (other .trap nofun nofun)
  · exact State.exec_raises (exec_nonInstruction_ill hn s) (other .ill nofun nofun)
  · exact State.exec_raises (exec_nonInstruction_lnest ⟨hop, hfarm, hlen⟩ s) (other .lnest nofun nofun)
  · exact State.exec_raises (exec_brk s) (fun h => Bool.false_ne_true (hd.symm.trans h.1))
  · exact congrArg _ (State.raise_of_debugger ⟨hd, .inl rfl⟩)

end Sys2Proof.Machine
end

section
/-!
A vector word that reads and writes registers alone, in a convoy of its own (R20, R26, R27, R101, R113): what its retirement leaves.
-/
namespace Sys2Proof.Machine

/-! ### What the checks of Table 2.6 say of a vector instruction -/

/-- Steps 6 and 7 of Table 2.6 on the fields of a vector instruction that they do not refuse. -/
theorem checks_of_vecFault {i : Instr} {u op : Nat} {v : VArgs} {r : VecRow} (hc : vecCode i = some (u, op, v)) (hr : vecRow u op = some r)
    (h : vecFault i = none) : v.encFault = false ∧ r.shape.bankFault v = false ∧ r.shape.accepts v = true := by
  have hop := (vecRow_of_vecCode hc).1
  have h7 : (BitVec.ofNat 7 op).toNat = op := by rw [BitVec.toNat_ofNat, Nat.mod_eq_of_lt hop]
  have henc : encodeVec i = some (u, packVec (BitVec.ofNat 7 op) v) := by rw [encodeVec, hc]; rfl
  obtain ⟨he, hs⟩ := (vecFault_eq_none_iff henc).mp h
  simp only [encFault, vecInstr, op7Of_packVec, vargsOf_packVec, h7, hr, Bool.or_eq_false_iff] at he hs
  refine ⟨he.1, he.2, ?_⟩
  split at hs
  · assumption
  · cases hs

theorem VArgs.vd_lt_of_encFault {v : VArgs} (h : v.encFault = false) : v.vd.toNat < 48 := by
  simp [VArgs.encFault] at h
  omega

/-- A row that refuses the number of a mask register in vd (R116) leaves one of the twelve. -/
theorem VShape.vd_lt_of_accepts {sh : VShape} {v : VArgs} (hb : sh.bad = badMask VArgs.vd) (h : sh.accepts v = true) : v.vd.toNat < 12 := by
  simp [VShape.accepts, hb, badMask] at h
  omega

/-! ### The issue of a word that touches registers alone -/

/-- A vector word that accesses no memory, reads no table and claims no pane. -/
structure RegistersOnly (i : Instr) : Prop where
  memory    : memForm i = none
  addresses : ∀ c : Ctx, c.hashAddresses i = []
  table     : readsTable i = false
  claim     : ∀ s : State, (s.claims [i]).1 = []

/-- The words of VALU-A, VALU-B and VPERM touch registers alone. -/
theorem registersOnly_of_unit {i : Instr} {u o : Nat} {v : VArgs} (hc : vecCode i = some (u, o, v)) (hu : u = 0 ∨ u = 3) :
    RegistersOnly i := by
  obtain rfl | rfl := hu <;> cases i
  all_goals cases hc
  all_goals exact ⟨rfl, fun _ => rfl, rfl, fun _ => rfl⟩

/-- Every vector instruction stands in a convoy of its own (R20). -/
theorem exec_vector {i : Instr} {p : VOp × VArgs} (h : opOf i = some p) (s : State) : exec i s = s.runVector i := by
  cases i
  all_goals cases h
  all_goals rfl

/-- Its issue translates no address. -/
theorem Ctx.gates_sole_vas {c : Ctx} {i : Instr} {g : Gate} (hi : RegistersOnly i) (h : Ctx.gates [i] c {} = some g) : g.vas = [] := by
  unfold Ctx.gates at h
  split at h
  · cases h
  next g1 hg =>
    have hv : (({} : Gate).and g1).vas = [] := by
      simp only [Ctx.gateOf, hi.memory, hi.addresses] at hg
      split at hg
      · cases hg
      · split at hg
        · cases hg
        · cases hg; rfl
    simp only [Ctx.gates] at h
    repeat' split at h
    all_goals cases h; exact hv

/-- A convoy of such a word claims no pane and translates nothing as it issues. -/
theorem State.ready_registers {s : State} {i : Instr} (hi : RegistersOnly i) {p : Convoy × List Word}
    (h : (s.queued i).ready (s.soleConvoy i) = some p) : p.1.claimed = [] ∧ p.2 = [] := by
  have hw : (s.soleConvoy i).words = [i] := rfl
  unfold State.ready at h
  simp only [hw] at h
  split at h
  · cases h
  · split at h
    · cases h
    · split at h
      · cases h
      · split at h
        · cases h
        next g hg =>
          cases h
          exact ⟨hi.claim _, Ctx.gates_sole_vas hi hg⟩

/-- The state in which the convoy of such a word runs: the round-robin pointer moved on, the convoy queued. -/
def State.registersIssued (s : State) (cv : Convoy) : State :=
  (s.mapCore (fun k => { k with rrIssue := (s.h.id % 4 + 1) % 4 })).mapH (fun h => { h with convoys := [cv] })

/-- What `vectorReady` says of the sole convoy of such a word. -/
structure State.IssuesRegisters (s : State) (i : Instr) (cv : Convoy) : Prop where
  sole    : s.soleIssue i = some cv
  empty   : s.h.convoys = []
  front   : s.h.front = none
  words   : cv.words = [i]
  next    : cv.next = s.h.pc + 12
  claimed : cv.claimed = []
  vas     : cv.words.flatMap s.soleAddresses = []
  state   : s.atRetire cv = s.registersIssued cv

theorem issuesRegisters_of_vectorReady {i : Instr} {s : State} (hi : RegistersOnly i) (hr : vectorReady i s = true) :
    ∃ cv, s.IssuesRegisters i cv := by
  simp only [vectorReady, Bool.and_eq_true, List.isEmpty_iff, Option.isNone_iff_eq_none] at hr
  obtain ⟨⟨⟨⟨⟨⟨⟨⟨⟨-, -⟩, hq⟩, hf⟩, -⟩, -⟩, -⟩, -⟩, -⟩, hm⟩ := hr
  split at hm
  case h_2 => cases hm
  next cv hcv =>
    obtain ⟨p, hp, rfl⟩ := Option.map_eq_some_iff.mp hcv
    obtain ⟨hw, hn, -, -⟩ := State.ready_some hp
    obtain ⟨hcl, hva⟩ := State.ready_registers hi hp
    have hwords : p.1.words = [i] := hw
    have hvas : p.1.words.flatMap s.soleAddresses = [] := by simp [hwords, State.soleAddresses, hp, hva]
    have htab : p.1.words.any readsTable = false := by simp [hwords, hi.table]
    refine ⟨p.1, hcv, hq, hf, hwords, hn, hcl, hvas, ?_⟩
    rw [State.atRetire_none s htab, State.afterIssue, State.tablesHome_none _ htab, hcl, hvas]
    rfl

/-! ### The retirement of a slot that wrote registers alone -/

/-- What a slot's register writes and flags make of the hart at the retirement (R27, R99, R101, R102, R110, R132). -/
def Ctx.onHart (c : Ctx) (h : Hart) : Hart :=
  { c.xw.foldl (fun h p => h.wx p.1 p.2) h with
    v := c.v, k := c.k, fflags := h.fflags ||| c.fl, vdirty := h.vdirty ||| c.vw, kdirty := h.kdirty ||| c.kw,
    vstate := if (c.vw ≠ 0 ∨ c.kw ≠ 0) ∧ (h.vstate = 1 ∨ h.vstate = 2) then 3 else h.vstate }

section
variable {c : Ctx} {h : Hart} (hx : c.xw = []) (hf : c.fl = 0)
include hx hf

/-- A slot that wrote V registers alone, the dirty bits of which are `d`. -/
theorem Ctx.onHart_of_vWrite {d : BitVec 48} (hk : c.k = h.k) (hkw : c.kw = 0) (hvw : c.vw = d) (hd : d ≠ 0#48) :
    c.onHart h = { h with v := c.v, vdirty := h.vdirty ||| d, vstate := h.touched } := by
  simp [Ctx.onHart, Hart.touched, hx, hf, hk, hkw, hvw, hd]

/-- A slot that wrote mask registers alone, the dirty bits of which are `d`. -/
theorem Ctx.onHart_of_kWrite {d : BitVec 12} (hv : c.v = h.v) (hvw : c.vw = 0) (hkw : c.kw = d) (hd : d ≠ 0#12) :
    c.onHart h = { h with k := c.k, kdirty := h.kdirty ||| d, vstate := h.touched } := by
  simp [Ctx.onHart, Hart.touched, hx, hf, hv, hvw, hkw, hd]

end

/-- Only what the effect makes of the hart in hand counts. -/
theorem State.vectorDone_congr {s : State} {f g : Hart → Hart} (h : f s.h = g s.h) : s.vectorDone f = s.vectorDone g := by
  simp only [State.vectorDone, State.mapH, State.mapCore, h]

theorem State.retires_congr {s : State} {i : Instr} {f g : Hart → Hart} (h : f s.h = g s.h) (hf : s.retires i f) : s.retires i g :=
  hf.trans (congrArg _ (State.vectorDone_congr h))

/-- A word that touches registers alone, once ready and not refused, retires with what its slot wrote. -/
theorem State.retires_registers {s : State} {i : Instr} {op : VOp} {v : VArgs} {cv : Convoy} {c : Ctx} {f : Hart → Hart}
    (hr : vectorReady i s = true) (hi : RegistersOnly i) (hcv : s.IssuesRegisters i cv) (hop : opOf i = some (op, v))
    (hill : op.ill v (s.queued i) = false) (hrun : op.run v (Ctx.start (s.registersIssued cv) cv) = .ok c)
    (ht : c.t = s.registersIssued cv) (hc : c.cv = cv) (hf : c.onHart s.h = f s.h) : s.retires i f := by
  have htab : cv.words.any readsTable = false := by simp [hcv.words, hi.table]
  have hret := Ctx.retire_registers hcv.empty hcv.front hcv.claimed hcv.vas hcv.next htab (ht.trans hcv.state.symm) hc
  refine State.retires_congr hf ?_
  rw [State.retires, exec_vector hop, State.runVector_ready hr hop hcv.sole hill (hcv.state ▸ hrun), hret]
  rfl

/-- The context in which the slot of such a word runs reads the registers of the hart in hand. -/
def State.registersCtx (s : State) (cv : Convoy) : Ctx := Ctx.start (s.registersIssued cv) cv

/-- A bit of a number of `n` bits is not 0. -/
theorem ofNat_two_pow_ne_zero {n p : Nat} (h : p < n) : BitVec.ofNat n (2 ^ p) ≠ 0#n := by
  intro e
  have e' : (BitVec.ofNat n (2 ^ p)).toNat = 0 := by rw [e]; exact Nat.zero_mod _
  rw [BitVec.toNat_ofNat, Nat.mod_eq_of_lt (Nat.pow_lt_pow_right (by omega) h)] at e'
  exact Nat.ne_of_gt (Nat.two_pow_pos p) e'

/-- Names below 48 denote physical registers below 48 (R152). -/
theorem Loops.physical_lt (l : Loops) {n : Nat} (h : n < 48) : l.physical n < 48 := by
  unfold Loops.physical
  split <;> omega

section
variable (s : State) (cv : Convoy)

@[simp] theorem State.registersCtx_vl : (s.registersCtx cv).vl = s.h.vln := rfl

/-- A slot that wrote nothing leaves the hart as it is. -/
theorem State.registersCtx_onHart : (s.registersCtx cv).onHart s.h = s.h := by
  simp [Ctx.onHart, State.registersCtx, Ctx.start, State.registersIssued]

/-- A register write of a slot as the hart keeps it. -/
theorem State.registersCtx_putV {n : Nat} (hn : n < 48) (w m : Nat) (f : Nat → Nat) :
    ((s.registersCtx cv).putV n w m f).onHart s.h = s.h.writeV n w m f := by
  unfold Ctx.putV Hart.writeV
  rw [State.registersCtx_vl]
  split
  · exact s.registersCtx_onHart cv
  · have hb := ofNat_two_pow_ne_zero (s.h.loops.physical_lt hn)
    exact Ctx.onHart_of_vWrite rfl rfl rfl rfl (BitVec.zero_or ..) hb

/-- A mask write of a slot as the hart keeps it. -/
theorem State.registersCtx_putK {n : Nat} (hn : n < 12) (f : Nat → Bool) :
    ((s.registersCtx cv).putK n f).onHart s.h = s.h.writeK n f := by
  unfold Ctx.putK Hart.writeK
  rw [State.registersCtx_vl]
  split
  · exact s.registersCtx_onHart cv
  · have hb := ofNat_two_pow_ne_zero hn
    exact Ctx.onHart_of_kWrite rfl rfl rfl rfl (BitVec.zero_or ..) hb

@[simp] theorem Ctx.putV_rest (c : Ctx) (n w m : Nat) (f : Nat → Nat) : (c.putV n w m f).t = c.t ∧ (c.putV n w m f).cv = c.cv := by
  unfold Ctx.putV; split <;> exact ⟨rfl, rfl⟩

@[simp] theorem Ctx.putK_rest (c : Ctx) (n : Nat) (f : Nat → Bool) : (c.putK n f).t = c.t ∧ (c.putK n f).cv = c.cv := by
  unfold Ctx.putK; split <;> exact ⟨rfl, rfl⟩

end

/-- A word that writes the register named `n` and nothing else. -/
theorem State.retires_putV {s : State} {i : Instr} {op : VOp} {v : VArgs} {n w m : Nat} {f : Nat → Nat}
    (hr : vectorReady i s = true) (hi : RegistersOnly i) (hop : opOf i = some (op, v)) (hill : op.ill v (s.queued i) = false)
    (hrun : ∀ cv, op.run v (s.registersCtx cv) = .ok ((s.registersCtx cv).putV n w m f)) (hn : n < 48) :
    s.retires i (fun h => h.writeV n w m f) := by
  obtain ⟨cv, hcv⟩ := issuesRegisters_of_vectorReady hi hr
  obtain ⟨ht, hc⟩ := Ctx.putV_rest (s.registersCtx cv) n w m f
  exact State.retires_registers hr hi hcv hop hill (hrun cv) ht hc (s.registersCtx_putV cv hn w m f)

/-- A word that gives its active elements (R113) and nothing else. -/
theorem State.retires_each {s : State} {i : Instr} {op : VOp} {v : VArgs} {w : Nat} {g : Hart → Nat → Nat}
    (hr : vectorReady i s = true) (hi : RegistersOnly i) (hop : opOf i = some (op, v)) (hill : op.ill v (s.queued i) = false)
    (hrun : ∀ cv, op.run v (s.registersCtx cv) = .ok ((s.registersCtx cv).each v w (g s.h))) (hvd : v.vd.toNat < 48) :
    s.retires i (fun h => h.writeEach v w (g h)) :=
  State.retires_congr rfl (State.retires_putV (n := v.vd.toNat) (w := w) (m := s.h.vln)
    (f := fun e => if s.h.takes v e then g s.h e else s.h.elem v.vd.toNat w e) hr hi hop hill hrun hvd)

/-- A word that writes the mask register `n` and nothing else. -/
theorem State.retires_putK {s : State} {i : Instr} {op : VOp} {v : VArgs} {n : Nat} {f : Nat → Bool}
    (hr : vectorReady i s = true) (hi : RegistersOnly i) (hop : opOf i = some (op, v)) (hill : op.ill v (s.queued i) = false)
    (hrun : ∀ cv, op.run v (s.registersCtx cv) = .ok ((s.registersCtx cv).putK n f)) (hn : n < 12) :
    s.retires i (fun h => h.writeK n f) := by
  obtain ⟨cv, hcv⟩ := issuesRegisters_of_vectorReady hi hr
  obtain ⟨ht, hc⟩ := Ctx.putK_rest (s.registersCtx cv) n f
  exact State.retires_registers hr hi hcv hop hill (hrun cv) ht hc (s.registersCtx_putK cv hn f)

theorem vecFault_of_vectorReady {i : Instr} {s : State} (hr : vectorReady i s = true) : vecFault i = none := by
  simp only [vectorReady, Bool.and_eq_true, Option.isNone_iff_eq_none] at hr
  exact hr.1.1.1.1.1.1.1.1.2

end Sys2Proof.Machine
end

section
/-!
Integer arithmetic, tests and width changes (Table 6.8, R115, R116, R118). Settles O39.
-/
namespace Sys2Proof.Machine

/-! ### Numbers of `w` bits -/

theorem VReg.elem_lt (r : VReg) (w e : Nat) : r.elem w e < 2 ^ w := Nat.mod_lt _ (Nat.two_pow_pos _)

theorem Hart.elem_lt (h : Hart) (n w e : Nat) : h.elem n w e < 2 ^ w := VReg.elem_lt _ _ _

theorem Hart.second_lt (h : Hart) (v : VArgs) (e : Nat) : h.second v e < 2 ^ h.sew := by
  unfold Hart.second secondOf
  split
  · exact Nat.mod_lt _ (Nat.two_pow_pos _)
  · split
    · exact Nat.mod_lt _ (Nat.two_pow_pos _)
    · exact VReg.elem_lt _ _ _

theorem ofInt_natCast {w a : Nat} (h : a < 2 ^ w) : ofInt w a = a := by
  have e : ((a : Int) % 2 ^ w) = a := Int.emod_eq_of_lt (by omega) (by exact_mod_cast h)
  rw [ofInt, e, Int.toNat_natCast]

/-- A number of `w` bits and its signed value are the same bits (R105). -/
theorem ofInt_toSigned {w a : Nat} (h : a < 2 ^ w) : ofInt w (toSigned w a) = a := by
  unfold toSigned
  rw [Nat.mod_eq_of_lt h]
  split
  · exact ofInt_natCast h
  · rw [ofInt, Int.sub_emod_right]
    exact ofInt_natCast h

theorem ofInt_natCast_sub {w a b : Nat} (h : b < 2 ^ w) : ofInt w ((a : Int) - b) = (a + 2 ^ w - b) % 2 ^ w := by
  have e : ((a + 2 ^ w - b : Nat) : Int) = (a : Int) - b + 2 ^ w := by
    have hp : ((2 ^ w : Nat) : Int) = 2 ^ w := Int.natCast_pow 2 w
    omega
  rw [ofInt, ← Int.add_emod_right, ← e]
  norm_cast

theorem clampInt_eq {lo hi : Int} (h : lo ≤ hi) (x : Int) : clampInt lo hi x = max lo (min hi x) := by
  unfold clampInt
  split
  · omega
  · split <;> omega

theorem clampSigned_eq (w : Nat) (x : Int) : clampSigned w x = ofInt w (max (-(2 ^ (w - 1))) (min (2 ^ (w - 1) - 1) x)) := by
  have hp : (0 : Int) < 2 ^ (w - 1) := Int.pow_pos (by decide)
  rw [clampSigned, clampInt_eq (by omega)]

theorem clampUnsigned_natCast (w x : Nat) : clampUnsigned w (x : Int) = min (2 ^ w - 1) x := by
  have hp : 0 < 2 ^ w := Nat.two_pow_pos w
  have hcast : ((2 ^ w : Nat) : Int) = 2 ^ w := Int.natCast_pow 2 w
  have hmin : max 0 (min ((2 : Int) ^ w - 1) x) = (min (2 ^ w - 1) x : Nat) := by omega
  rw [clampUnsigned, clampInt_eq (by omega), hmin, ofInt_natCast (by omega)]

/-! ### Each shape of an integer word -/

/-- Does the word, once it is ready, complete with `op` of its operands and of its destination in every active element? -/
def State.givesEach (s : State) (v : VArgs) (i : Instr) (op : Nat → Nat → Nat → Nat) : Prop :=
  vectorReady i s = true → s.retires i (fun h => h.writeEach v s.h.sew (fun e =>
    op (h.elem v.vs1.toNat s.h.sew e) (h.second v e) (h.elem v.vd.toNat s.h.sew e)))

/-- Does the word, once it is ready, complete with its mask telling which active elements satisfy `p`? -/
def State.givesTest (s : State) (v : VArgs) (i : Instr) (p : Nat → Nat → Prop) : Prop :=
  vectorReady i s = true → ∃ g : Hart → Hart, s.retires i g ∧
    ∃ q : Nat → Bool, g s.h = s.h.testEach v q ∧ ∀ e, q e = true ↔ p (s.h.elem v.vs1.toNat s.h.sew e) (s.h.second v e)

section
variable {s : State} {v : VArgs} (h2 : vtFmt s.h.vt ≠ 2) (h3 : vtFmt s.h.vt ≠ 3)
include h2 h3

theorem notInteger_eq_false (i : Instr) : notInteger v (s.queued i) = false := by
  simp [notInteger, State.queued, h2, h3]

theorem noDouble_eq_false (i : Instr) (hw : s.h.sew ≠ 64) : noDouble v (s.queued i) = false := by
  have : (s.queued i).h.sew = s.h.sew := rfl
  simp [noDouble, notInteger_eq_false h2 h3, this, hw]

/-- An integer word of Table 6.8, its operation given on numbers of the width of VT. -/
theorem retires_intOp {i : Instr} {f : IntFn} {op : Nat → Nat → Nat → Nat} {o : Nat} {r : VecRow}
    (hop : opOf i = some (intOp f, v)) (hc : vecCode i = some (0, o, v)) (hrow : vecRow 0 o = some r)
    (hf : ∀ x y d, x < 2 ^ s.h.sew → y < 2 ^ s.h.sew → f s.h.sew x y d = op x y d) : s.givesEach v i op := by
  intro hr
  have hvd := VArgs.vd_lt_of_encFault (checks_of_vecFault hc hrow (vecFault_of_vectorReady hr)).1
  refine State.retires_congr ?_ (State.retires_each (w := s.h.sew) (g := fun h e =>
    f s.h.sew (h.elem v.vs1.toNat s.h.sew e) (h.second v e) (h.elem v.vd.toNat s.h.sew e)) hr (registersOnly_of_unit hc (.inl rfl)) hop (notInteger_eq_false (v := v) h2 h3 i)
    (fun cv => rfl) hvd)
  exact congrArg _ (funext fun e => hf _ _ _ (s.h.elem_lt _ _ _) (s.h.second_lt _ _))

/-- A test writes its mask (R116). -/
theorem retires_cmpOp {i : Instr} {f : CmpFn} {p : Nat → Nat → Prop} {o : Nat} {r : VecRow}
    (hop : opOf i = some (cmpOp f, v)) (hc : vecCode i = some (0, o, v)) (hrow : vecRow 0 o = some r)
    (hbad : r.shape.bad = badMask VArgs.vd) (hf : ∀ x y, f s.h.sew x y = true ↔ p x y) : s.givesTest v i p := by
  intro hr
  have hvd := VShape.vd_lt_of_accepts hbad (checks_of_vecFault hc hrow (vecFault_of_vectorReady hr)).2.2
  refine ⟨fun h => h.testEach v _, ?_, fun e => f s.h.sew (s.h.elem v.vs1.toNat s.h.sew e) (s.h.second v e), rfl, fun e => hf _ _⟩
  exact State.retires_congr rfl (State.retires_putK (n := v.vd.toNat) (f := fun e => if s.h.takes v e then
    f s.h.sew (s.h.elem v.vs1.toNat s.h.sew e) (s.h.second v e) else s.h.maskBit v.vd.toNat e) hr (registersOnly_of_unit hc (.inl rfl)) hop
    (notInteger_eq_false (v := v) h2 h3 i) (fun cv => rfl) hvd)

theorem retires_vwiden (hw : s.h.sew ≠ 64) (hfit : s.h.vln * (2 * s.h.sew) ≤ 8192) (hr : vectorReady (.vwiden v) s = true) :
    s.retires (.vwiden v) (fun h => h.writeEach v (2 * s.h.sew) (fun e =>
      if fmtSigned s.h.vt then ofInt (2 * s.h.sew) (toSigned s.h.sew (h.elem v.vs1.toNat s.h.sew e))
      else h.elem v.vs1.toNat s.h.sew e)) := by
  have hvd := VArgs.vd_lt_of_encFault (checks_of_vecFault rfl rfl (vecFault_of_vectorReady hr)).1
  exact State.retires_each (w := 2 * s.h.sew) (g := fun h e =>
    if fmtSigned s.h.vt then ofInt (2 * s.h.sew) (toSigned s.h.sew (h.elem v.vs1.toNat s.h.sew e)) else h.elem v.vs1.toNat s.h.sew e)
    hr (registersOnly_of_unit rfl (.inl rfl)) rfl (noDouble_eq_false h2 h3 _ hw) (fun _ => if_neg (Nat.not_lt.mpr hfit)) hvd

theorem retires_vnarrow (hw : s.h.sew ≠ 64) (hfit : s.h.vln * (2 * s.h.sew) ≤ 8192) (hr : vectorReady (.vnarrow v) s = true) :
    s.retires (.vnarrow v) (fun h => h.writeEach v s.h.sew (fun e =>
      narrowElem s.h.vt (bitAt v.ext.toNat 0) s.h.sew (h.elem v.vs1.toNat (2 * s.h.sew) e))) := by
  have hvd := VArgs.vd_lt_of_encFault (checks_of_vecFault rfl rfl (vecFault_of_vectorReady hr)).1
  exact State.retires_each (w := s.h.sew) (g := fun h e =>
    narrowElem s.h.vt (bitAt v.ext.toNat 0) s.h.sew (h.elem v.vs1.toNat (2 * s.h.sew) e))
    hr (registersOnly_of_unit rfl (.inl rfl)) rfl (noDouble_eq_false h2 h3 _ hw) (fun _ => if_neg (Nat.not_lt.mpr hfit)) hvd

end

/-! ### The operations of Table 6.8 on numbers of `w` bits -/

section
variable {w x y : Nat}

theorem vMin_eq (hx : x < 2 ^ w) (hy : y < 2 ^ w) (d : Nat) : vMin w x y d = ofInt w (min (toSigned w x) (toSigned w y)) := by
  unfold vMin
  split
  · rw [Int.min_eq_left ‹_›, ofInt_toSigned hx]
  · rw [Int.min_eq_right (by omega), ofInt_toSigned hy]

theorem vMax_eq (hx : x < 2 ^ w) (hy : y < 2 ^ w) (d : Nat) : vMax w x y d = ofInt w (max (toSigned w x) (toSigned w y)) := by
  unfold vMax
  split
  · rw [Int.max_eq_right ‹_›, ofInt_toSigned hy]
  · rw [Int.max_eq_left (by omega), ofInt_toSigned hx]

theorem narrowElem_eq (vt : BitVec 11) (ext : BitVec 26) (a : Nat) :
    narrowElem vt (bitAt ext.toNat 0) w a =
      if ext.getLsbD 0 = false then a % 2 ^ w
      else if fmtSigned vt then ofInt w (max (-(2 ^ (w - 1))) (min (2 ^ (w - 1) - 1) (toSigned (2 * w) a)))
      else min (2 ^ w - 1) a := by
  rw [narrowElem, bitAt_toNat, clampSigned_eq, clampUnsigned_natCast]
  cases ext.getLsbD 0 <;> rfl

end

/-- Settles O39: one lemma for each shape of integer word, and the operations as functions of numbers. -/
theorem vectorIntegerResults : Obligations.VectorIntegerResults := by
  unfold Obligations.VectorIntegerResults
  intro v s h2 h3 w sg clamp a each test
  have arith : ∀ {i op}, s.givesEach v i op → each i op := id
  have compare : ∀ {i p}, s.givesTest v i p → test i p := id
  clear_value each test
  refine ⟨arith (retires_intOp h2 h3 rfl rfl rfl fun _ _ _ _ _ => rfl),
    arith (retires_intOp h2 h3 rfl rfl rfl fun _ _ _ _ hy => (ofInt_natCast_sub hy).symm),
    arith (retires_intOp h2 h3 rfl rfl rfl fun _ _ _ hx _ => (ofInt_natCast_sub hx).symm),
    arith (retires_intOp h2 h3 rfl rfl rfl fun _ _ _ _ _ => rfl),
    arith (retires_intOp h2 h3 rfl rfl rfl fun _ _ _ _ _ => rfl),
    arith (retires_intOp h2 h3 rfl rfl rfl fun _ _ _ _ _ => rfl),
    arith (retires_intOp h2 h3 rfl rfl rfl fun _ _ _ _ _ => rfl),
    arith (retires_intOp h2 h3 rfl rfl rfl fun _ _ _ _ _ => rfl),
    arith (retires_intOp h2 h3 rfl rfl rfl fun _ _ _ _ _ => rfl),
    arith (retires_intOp h2 h3 rfl rfl rfl fun _ _ d hx hy => vMin_eq hx hy d),
    arith (retires_intOp h2 h3 rfl rfl rfl fun _ _ d hx hy => vMax_eq hx hy d),
    arith (retires_intOp h2 h3 rfl rfl rfl fun _ _ _ _ _ => rfl),
    arith (retires_intOp h2 h3 rfl rfl rfl fun _ _ _ _ _ => rfl),
    arith (retires_intOp h2 h3 rfl rfl rfl fun _ _ _ _ _ => clampSigned_eq _ _),
    arith (retires_intOp h2 h3 rfl rfl rfl fun _ _ _ _ _ => clampSigned_eq _ _),
    arith (retires_intOp h2 h3 rfl rfl rfl fun x y _ _ _ => clampUnsigned_natCast _ (x + y)),
    arith (retires_intOp h2 h3 rfl rfl rfl fun _ _ _ _ _ => rfl),
    arith (retires_intOp h2 h3 rfl rfl rfl fun _ _ _ _ _ => rfl),
    arith (retires_intOp h2 h3 rfl rfl rfl fun _ _ _ _ _ => rfl),
    arith (retires_intOp h2 h3 rfl rfl rfl fun _ _ _ _ _ => rfl), ?_⟩
  refine ⟨compare (retires_cmpOp h2 h3 rfl rfl rfl rfl fun x y => by simp),
    compare (retires_cmpOp h2 h3 rfl rfl rfl rfl fun x y => by simp),
    compare (retires_cmpOp h2 h3 rfl rfl rfl rfl fun _ _ => decide_eq_true_iff),
    compare (retires_cmpOp h2 h3 rfl rfl rfl rfl fun _ _ => decide_eq_true_iff),
    compare (retires_cmpOp h2 h3 rfl rfl rfl rfl fun _ _ => decide_eq_true_iff),
    compare (retires_cmpOp h2 h3 rfl rfl rfl rfl fun _ _ => decide_eq_true_iff),
    compare (retires_cmpOp h2 h3 rfl rfl rfl rfl fun _ _ => decide_eq_true_iff),
    fun hw hfit => ⟨fun hr => retires_vwiden h2 h3 hw hfit hr, fun hr => ?_⟩⟩
  have h := retires_vnarrow h2 h3 hw hfit hr
  simp only [narrowElem_eq] at h
  exact h

end Sys2Proof.Machine
end

section
/-!
What a step comes to (R14, R15, R30, R93, R245, R289, R301; log 1, log 10, log 11): the instruction at the PC, the event that the agenda
names, or a word that the pipeline runs ahead. Settles O1.
-/
namespace Sys2Proof.Machine

/-! ### The turn of a hart with nothing else due -/

/-- Nothing but the word at the PC is due of the hart in hand: no event beside it, no trap asked for, nothing queued, ahead or waited for. -/
structure State.NothingDue (u : State) : Prop where
  steps    : u.dev.steps % 64 ≠ 0
  runnable : u.h.runnable = true
  taking   : u.h.taking = none
  noAsync  : ¬ (u.h.trap.te = true ∧ (u.h.preempt = true ∨ u.h.timer = true))
  convoys  : u.h.convoys = []
  squeue   : u.h.squeue = []
  ahead    : u.h.ahead = []
  wait     : u.h.wait = .none

/-- The state in which the word at the PC is fetched: the skip of R289 is in force for it alone. -/
def State.fetching (s : State) : State := s.mapH (fun h => { h with skipping := h.skipNow, skipNow := false })

theorem State.next_of_nothingDue {s : State} (hag : s.agenda = []) (h : s.tick.NothingDue) : s.next = s.tick.fetchTurn := by
  have hn : s.next = s.tick.plan := by rw [State.next, hag]
  rw [hn, State.plan, if_neg (fun e => h.steps e.1), State.turn]
  simp [h.runnable, h.taking, h.noAsync, h.convoys, h.squeue, h.ahead, h.wait]

/-- The fetch at the PC gives the instruction that its bytes decode to. -/
theorem State.fetch_instr {t : State} {w : Word32} {bs rest : List Byte} {i : Instr} (hpc : t.h.pc.toNat % 4 = 0)
    (hw : t.fetchWord t.h.pc = .ok w) (hh : isHeader w = true → t.h.pc.toNat % 8 = 4)
    (hbs : t.fetchWords (t.h.pc + 4) (vectorWords w) = .ok bs) (hi : decode (bytesOf 4 w.toNat ++ bs) = some (i, rest)) :
    t.fetch = .instr i := by
  have hplace : ¬ (isHeader w = true ∧ t.h.pc.toNat % 8 ≠ 4) := fun e => e.2 (hh e.1)
  simp only [State.fetch, ne_eq, hpc, not_true_eq_false, if_false, hw, if_neg hplace, hbs, hi]

theorem State.fetchTurn_instr {s : State} {i : Instr} (hpc : s.h.pc ≠ exitPc) (hbp : s.fetching.h.bpFind [0] s.fetching.h.pc = none)
    (hf : s.fetching.fetch = .instr i) : s.fetchTurn = .exec i (s.fetching.enteredFetch i) := by
  unfold State.fetching at hbp hf
  simp only [State.fetchTurn, if_neg hpc, hbp, hf]
  rfl

/-- The lowest breakpoint that matches is the one found (R301). -/
theorem Hart.bpFind_of_lowest {h : Hart} {kinds : List Nat} {a : Word} {b : Nat} (hb : b < 8) (hm : h.bpMatches kinds a b = true)
    (hlow : ∀ c, c < b → h.bpMatches kinds a c = false) : h.bpFind kinds a = some b := by
  rw [Hart.bpFind, upTo, List.find?_range_eq_some]
  exact ⟨hm, List.mem_range.mpr hb, fun c hc => by simp [hlow c hc]⟩

theorem State.fetchTurn_breakpoint {s : State} {b : Nat} (hpc : s.h.pc ≠ exitPc)
    (hbp : s.fetching.h.bpFind [0] s.fetching.h.pc = some b) :
    s.fetchTurn = .done (s.fetching.breakAt b (s.fetching.h.bpSnaps [0] s.fetching.h.pc 1) (s.fetching.refusal .dbg s.fetching.h.pc)) := by
  unfold State.fetching at hbp
  simp only [State.fetchTurn, if_neg hpc, hbp]
  rfl

/-! ### The moves of an agenda -/

theorem step_event {s : State} {i : Instr} {l : List Move} (hag : s.agenda = .event i :: l) (hi : spontaneous i = true) :
    step s = exec i ({ s with agenda := l } : State).tick := by
  simp only [step, State.next, hag, State.act, hi, if_true]

/-- A plain word that the pipeline can execute next is executed ahead (R93). -/
theorem State.aheadTurn_plain {u t : State} {i : Instr} (hn : u.nextAhead = some (t, i)) (hh : headForm t.h i = none)
    (hs : startOf i = none) (hc : ∀ h ws, i ≠ .convoy h ws) (ha : scalarAccess t i = none) : u.aheadTurn = .ahead i u t := by
  unfold State.aheadTurn
  rw [hn]
  simp only [hh, hs, ha, Option.isSome_none, Bool.false_or, Bool.false_eq_true, if_false]

theorem step_ahead {s t v : State} {i : Instr} {id : Nat} {l : List Move} (hag : s.agenda = .ahead id :: l) (hid : id < 12288)
    (hturn : (({ s with agenda := l } : State).tick.focus id).aheadTurn = .ahead i (({ s with agenda := l } : State).tick.focus id) t)
    (hex : exec i t = .next v) (htr : t.trappedIn v = false) :
    let u := ({ s with agenda := l } : State).tick.focus id
    step s = .next (u.wentAhead t.h.pc i .plain u.h.heldStores v) := by
  simp only [step, State.next, hag, State.act, if_pos hid, hturn, hex, State.tookAhead, htr, Bool.false_eq_true, if_false]

/-- Settles O1, from what the turn of a hart comes to and what the moves of an agenda do. -/
theorem stepRunsDecodedInstruction : Obligations.StepRunsDecodedInstruction := by
  unfold Obligations.StepRunsDecodedInstruction
  refine ⟨?_, ?_, fun s i l => step_event, ?_⟩
  · intro s w bs rest i t hag hst hrun htk hna hcv hsq hah hwt hexit hpc hbp hw hh hbs hi
    have hdue : s.tick.NothingDue := ⟨hst, hrun, htk, hna, hcv, hsq, hah, hwt⟩
    have hf : t.fetch = .instr i := State.fetch_instr hpc hw hh hbs hi
    rw [step, State.next_of_nothingDue hag hdue, State.fetchTurn_instr (s := s.tick) hexit hbp hf]
    rfl
  · intro s b t hag hst hrun htk hna hcv hsq hah hwt hexit hb hm hlow
    have hdue : s.tick.NothingDue := ⟨hst, hrun, htk, hna, hcv, hsq, hah, hwt⟩
    rw [step, State.next_of_nothingDue hag hdue, State.fetchTurn_breakpoint (s := s.tick) hexit (Hart.bpFind_of_lowest hb hm hlow)]
    rfl
  · intro s t u v i id l hag hid hu hn hh hs hc ha hex htr
    subst hu
    exact step_ahead hag hid (State.aheadTurn_plain hn hh hs hc ha) hex htr

end Sys2Proof.Machine
end

section
/-!
What traps, rewinds and the ordering of memory leave of the hart in hand: its number and its registers (R161, R278, R288, R290, R296).
-/
namespace Sys2Proof.Machine

/-- The number of a hart and the registers that a program computes with are those of another. -/
structure Hart.SameRegisters (a b : Hart) : Prop where
  id     : b.id = a.id
  x      : b.x = a.x
  v      : b.v = a.v
  k      : b.k = a.k
  fflags : b.fflags = a.fflags
  f      : b.f = a.f
  hf     : b.hf = a.hf

theorem Hart.SameRegisters.refl (a : Hart) : a.SameRegisters a := ⟨rfl, rfl, rfl, rfl, rfl, rfl, rfl⟩

theorem Hart.SameRegisters.trans {a b c : Hart} (h : a.SameRegisters b) (g : b.SameRegisters c) : a.SameRegisters c :=
  ⟨g.id.trans h.id, g.x.trans h.x, g.v.trans h.v, g.k.trans h.k, g.fflags.trans h.fflags, g.f.trans h.f, g.hf.trans h.hf⟩

theorem State.keepsHart.sameRegisters {s t : State} (h : s.keepsHart t) : s.h.SameRegisters t.h := by
  rw [h.1]
  exact ⟨rfl, rfl, rfl, rfl, rfl, rfl, rfl⟩

theorem State.keepsHart.id {s t : State} (h : s.keepsHart t) : t.h.id = s.h.id := h.sameRegisters.id

theorem State.withHart_self {s : State} {f : State → State} (h : (f s).h.id = s.h.id) : s.withHart s.h.id f = f s := by
  rw [State.withHart, State.focus_self, ← h, State.focus_self]

/-! ### The order of memory -/

theorem State.request_keepsHart (s : State) (src dst : Nat) : s.keepsHart (s.request src dst) := by
  unfold State.request
  split
  · exact s.keepsHart_refl
  · exact ⟨rfl, rfl⟩

theorem State.beforeHome_keepsHart (s : State) (ag : Agent) (k n : Nat) : s.keepsHart (s.beforeHome ag k n) :=
  (s.drainWhere_keepsHart _).trans (State.request_keepsHart _ _ _)

theorem State.afterRead_keepsHart (s : State) (ag : Agent) (k n : Nat) : s.keepsHart (s.afterRead ag k n) := by
  unfold State.afterRead
  dsimp only
  split
  · exact s.keepsHart_refl
  · exact (s.drainWhere_keepsHart _).trans (State.request_keepsHart _ _ _)

theorem State.atHome_keepsHart (s : State) : s.keepsHart s.atHome := s.drainWhere_keepsHart _

theorem State.strikeStore_keepsHart (s : State) (st : Store) : s.keepsHart (s.strikeStore st) :=
  (s.beforeHome_keepsHart _ _ _).trans (State.perform_keepsHart _ _ _)

theorem State.enteredAll_keepsHart (s : State) (as : List Word) : s.keepsHart (s.enteredAll as) := by
  obtain ⟨hh, ht⟩ := State.enteredAll_rest as s
  exact ⟨by rw [hh], ht⟩

theorem State.logHart_keepsHart (s : State) (kind : LogKind) (location : Nat) : s.keepsHart (s.logHart kind location) :=
  s.logError_keepsHart _ _ _ _ _

theorem State.tablesRead_keepsHart (s : State) (cv : Convoy) : s.keepsHart (s.tablesRead cv) := by
  unfold State.tablesRead
  split
  · exact s.atHome_keepsHart.trans (State.enteredAll_keepsHart _ _)
  · exact s.keepsHart_refl

theorem State.takeBack_keepsHart (s : State) (h : Hart) (key g : Nat) : s.keepsHart (s.takeBack h key g) := by
  unfold State.takeBack
  dsimp only
  split
  · exact (s.beforeHome_keepsHart _ _ _).trans (State.perform_keepsHart _ _ _)
  · exact s.beforeHome_keepsHart _ _ _

theorem State.withdraw_keepsHart (s : State) (h : Hart) : s.keepsHart (s.withdraw h) := by
  unfold State.withdraw
  split
  · split
    · exact s.takeBack_keepsHart _ _ _
    · exact s.logError_keepsHart _ _ _ _ _
    · exact s.keepsHart_refl
  · exact s.keepsHart_refl

/-! ### Strips -/

@[simp] theorem State.seal_id (s : State) : s.seal.h.id = s.h.id := by rw [State.seal_eq]

@[simp] theorem State.store_id (s : State) (st : Store) : (s.store st).h.id = s.h.id := by
  unfold State.store
  split
  · split
    · rfl
    · rw [State.accept_h, State.seal_id]
  · rw [State.accept_h, State.flushClosed_h]

theorem State.seal_sameRegisters (s : State) : s.h.SameRegisters s.seal.h := by
  rw [State.seal_eq]
  exact ⟨rfl, rfl, rfl, rfl, rfl, rfl, rfl⟩

/-! ### Traps and rewinds -/

theorem State.dropAhead_h (s : State) : s.dropAhead.h = s.h.dropAhead := by
  unfold State.dropAhead
  dsimp only
  split <;> rfl

theorem State.discardQueues_h (s : State) : s.discardQueues.h = { s.h.dropAhead with convoys := [], squeue := [] } := by
  unfold State.discardQueues
  simp only [State.mapH_h, State.mapCore_h, State.dropAhead_h]

theorem State.discardQueues_sameRegisters (s : State) : s.h.SameRegisters s.discardQueues.h := by
  rw [State.discardQueues_h]
  exact ⟨rfl, rfl, rfl, rfl, rfl, rfl, rfl⟩

theorem State.killTask_sameRegisters (s : State) (task : Nat) (cause : BitVec 8) (group : BitVec 16) :
    s.h.SameRegisters (s.killTask task cause group).h := by
  have hw := State.foldl_keepsHart State.withdraw State.withdraw_keepsHart (s.allHarts.filter (·.ofTask task)) s
  refine hw.sameRegisters.trans ?_
  unfold State.killTask
  dsimp only [State.mapDev_h, State.mapHarts]
  split <;> exact ⟨rfl, rfl, rfl, rfl, rfl, rfl, rfl⟩

theorem State.fatal_sameRegisters (s : State) (t : TrapInfo) : s.h.SameRegisters (s.fatal t).h := by
  have hstop : s.h.SameRegisters (s.h.stop s.dev.time) := ⟨rfl, rfl, rfl, rfl, rfl, rfl, rfl⟩
  unfold State.fatal
  extract_lets r u
  exact hstop.trans (u.killTask_sameRegisters _ _ _)

theorem State.raise_sameRegisters (s : State) (t : TrapInfo) : s.h.SameRegisters (s.raise t).h := by
  unfold State.raise
  split
  · rw [State.mapH_h, State.dropAhead_h]
    exact ⟨rfl, rfl, rfl, rfl, rfl, rfl, rfl⟩
  · split
    · exact (s.discardQueues_sameRegisters.trans s.discardQueues.seal_sameRegisters).trans ⟨rfl, rfl, rfl, rfl, rfl, rfl, rfl⟩
    · exact s.fatal_sameRegisters t

theorem State.raise_id (s : State) (t : TrapInfo) : (s.raise t).h.id = s.h.id := (s.raise_sameRegisters t).id

theorem State.rewind_id (s : State) (counted : Bool) : (s.rewind counted).h.id = s.h.id := by
  unfold State.rewind
  split
  · rfl
  · exact s.discardQueues_sameRegisters.id

theorem State.requestRewind_id (s : State) (t : TrapInfo) : (s.requestRewind t).h.id = s.h.id := by
  unfold State.requestRewind
  split
  · exact s.raise_id _
  · split
    · exact s.raise_id _
    · split
      · exact s.rewind_id _
      · exact s.raise_id _

end Sys2Proof.Machine
end

section
/-!
No slot of a convoy changes which hart is in hand (R26, R27): every vector operation carries its effects on the hart that executes it.
-/
namespace Sys2Proof.Machine

/-! ### What the writes of a slot leave of the state that carries its effects -/

section
variable (c : Ctx) (v : VArgs)

@[simp] theorem Ctx.flag_t (f : BitVec 5) : (c.flag f).t = c.t := rfl
@[simp] theorem Ctx.effect_t (f : State → State) : (c.effect f).t = f c.t := rfl
@[simp] theorem Ctx.each_t (w : Nat) (op : Nat → Nat) : (c.each v w op).t = c.t := (Ctx.putV_rest _ _ _ _ _).1
@[simp] theorem Ctx.eachF_t (w : Nat) (op : Nat → Nat × BitVec 5) : (c.eachF v w op).t = c.t := Ctx.each_t c v w _
@[simp] theorem Ctx.test_t (p : Nat → Bool) : (c.test v p).t = c.t := (Ctx.putK_rest _ _ _).1
@[simp] theorem Ctx.putFirst_t (r : Nat) : (c.putFirst v r).t = c.t := (Ctx.putV_rest _ _ _ _ _).1
@[simp] theorem Ctx.place_t (f : Word) (acc : Bool) (n : Nat) (outs : List (List Int)) : (c.place v f acc n outs).t = c.t :=
  (Ctx.putV_rest _ _ _ _ _).1
@[simp] theorem Ctx.putBits_t (n w m bits : Nat) : (c.putBits n w m bits).t = c.t := by unfold Ctx.putBits; split <;> rfl
@[simp] theorem Ctx.putL_t (n w : Nat) (l : List Nat) : (c.putL n w l).t = c.t := Ctx.putBits_t _ _ _ _ _
@[simp] theorem Ctx.putProbes_t (ls : List (Nat × BitVec 512)) : (c.putProbes v ls).t = c.t := (Ctx.putV_rest _ _ _ _ _).1

@[simp] theorem Ctx.enteredItems_id (m : VAddr) : (c.enteredItems m v).t.h.id = c.t.h.id := by
  unfold Ctx.enteredItems
  split
  · exact (c.t.enteredAll_keepsHart _).id
  · rfl

@[simp] theorem Ctx.readsAt_id (n : Nat) (ps : List (Nat × Place)) : (c.readsAt n ps).t.h.id = c.t.h.id :=
  (State.foldl_keepsHart _ (fun _ _ => State.afterRead_keepsHart _ _ _ _) ps c.t).id

@[simp] theorem State.beforeAtomic_id (s : State) : s.beforeAtomic.h.id = s.h.id := by
  rw [State.beforeAtomic, (State.drainWhere_keepsHart _ _).id, State.flushClosed_h, State.seal_id]

@[simp] theorem Ctx.performNoted_id (r : State) : (c.performNoted r).t.h.id = c.t.h.id :=
  ((State.foldl_keepsHart _ State.strikeStore_keepsHart _ _).id).trans (State.beforeAtomic_id _)

@[simp] theorem Ctx.atHome_id : c.atHome.t.h.id = c.t.h.id := c.t.atHome_keepsHart.id

@[simp] theorem Ctx.sealed_id : c.sealed.t.h.id = c.t.h.id := c.t.seal_id

end

/-- A chain of steps that each leave the number of the hart in hand. -/
theorem State.foldl_id {α : Type} (f : State → α → State) (hf : ∀ t a, (f t a).h.id = t.h.id) (l : List α) (s : State) :
    (l.foldl f s).h.id = s.h.id := by
  induction l generalizing s with
  | nil => rfl
  | cons a l ih => exact (ih _).trans (hf s a)

@[simp] theorem State.storeAll_id (s : State) (l : List Store) : (s.storeAll l).h.id = s.h.id := by
  unfold State.storeAll
  split
  · rfl
  · exact State.foldl_id _ State.store_id l s

/-! ### The operations -/

/-- Does an operation that is not refused leave which hart is in hand? -/
def VOp.KeepsHand (op : VOp) : Prop := ∀ {v : VArgs} {c c' : Ctx}, op.run v c = .ok c' → c'.t.h.id = c.t.h.id

/-- An operation that writes registers and flags alone. -/
theorem VOp.keepsHand_of_registers {op : VOp} {g : VArgs → Ctx → Ctx} (hrun : ∀ v c, op.run v c = .ok (g v c))
    (ht : ∀ v c, (g v c).t = c.t) : op.KeepsHand := by
  intro v c c' h
  rw [hrun] at h
  cases h
  rw [ht]

section
variable {v : VArgs} {c c' : Ctx}

/-- A slot that is refused unless it fits, and what it does then (R114, R125). -/
theorem Ctx.fitting_ok {w : Nat} {k : Ctx → Slot} (h : c.fitting w k = .ok c') : k c = .ok c' := by
  unfold Ctx.fitting at h
  split at h
  · cases h
  · exact h

theorem Ctx.blockFit_ok {k : Slot} (h : c.blockFit v k = .ok c') : k = .ok c' := by
  unfold Ctx.blockFit at h
  split at h
  · cases h
  · exact h

/-- A slot on a pane that the hart owns, of a type that suits it (R186). -/
theorem Ctx.withPane_ok {ok : PaneType → Bool} {k : Pane → Slot} (h : c.withPane v ok k = .ok c') :
    k (c.s.core.pane v.pane) = .ok c' := by
  unfold Ctx.withPane at h
  dsimp only at h
  split at h
  · cases h
  · split at h
    · cases h
    · exact h

end

theorem intOp_keepsHand (f : IntFn) : (intOp f).KeepsHand :=
  VOp.keepsHand_of_registers (fun _ _ => rfl) (fun _ _ => Ctx.each_t _ _ _ _)

theorem cmpOp_keepsHand (f : CmpFn) : (cmpOp f).KeepsHand :=
  VOp.keepsHand_of_registers (fun _ _ => rfl) (fun _ _ => Ctx.test_t _ _ _)

theorem vmvOp_keepsHand : vmvOp.KeepsHand := VOp.keepsHand_of_registers (fun _ _ => rfl) (fun _ _ => Ctx.each_t _ _ _ _)

theorem vidOp_keepsHand : vidOp.KeepsHand := VOp.keepsHand_of_registers (fun _ _ => rfl) (fun _ _ => Ctx.each_t _ _ _ _)

theorem vmergeOp_keepsHand : vmergeOp.KeepsHand :=
  VOp.keepsHand_of_registers (fun _ _ => rfl) (fun _ _ => (Ctx.putV_rest _ _ _ _ _).1)

theorem vwidenOp_keepsHand : vwidenOp.KeepsHand := by
  intro v c c' h
  simp only [vwidenOp] at h
  cases Ctx.fitting_ok h
  rw [Ctx.each_t]

theorem vnarrowOp_keepsHand : vnarrowOp.KeepsHand := by
  intro v c c' h
  simp only [vnarrowOp] at h
  cases Ctx.fitting_ok h
  rw [Ctx.each_t]

theorem fpOp_keepsHand (f : FpFn) : (fpOp f).KeepsHand :=
  VOp.keepsHand_of_registers (fun _ _ => rfl) (fun _ _ => Ctx.eachF_t _ _ _ _)

theorem vfsgnOp_keepsHand : vfsgnOp.KeepsHand := VOp.keepsHand_of_registers (fun _ _ => rfl) (fun _ _ => Ctx.each_t _ _ _ _)

theorem fpCmpOp_keepsHand (quiet : Bool) (ok : Ordering → Bool) : (fpCmpOp quiet ok).KeepsHand := by
  intro v c c' h
  cases h
  rw [Ctx.flag_t, Ctx.test_t]

theorem vfclassOp_keepsHand : vfclassOp.KeepsHand :=
  VOp.keepsHand_of_registers (fun _ _ => rfl) (fun _ _ => Ctx.each_t _ _ _ _)

theorem vfcvtOp_keepsHand : vfcvtOp.KeepsHand := by
  intro v c c' h
  simp only [vfcvtOp] at h
  cases Ctx.fitting_ok h
  rw [Ctx.eachF_t]

theorem vbscaleOp_keepsHand : vbscaleOp.KeepsHand := by
  intro v c c' h
  cases Ctx.blockFit_ok h
  rw [(Ctx.putV_rest _ _ _ _ _).1]

theorem vbquantOp_keepsHand : vbquantOp.KeepsHand := by
  intro v c c' h
  cases Ctx.blockFit_ok h
  rw [Ctx.eachF_t]

theorem vbdeqOp_keepsHand : vbdeqOp.KeepsHand := by
  intro v c c' h
  cases Ctx.blockFit_ok h
  rw [Ctx.eachF_t]

theorem kk2Op_keepsHand (f : Bool → Bool → Bool) : (kk2Op f).KeepsHand :=
  VOp.keepsHand_of_registers (fun _ _ => rfl) (fun _ _ => (Ctx.putK_rest _ _ _).1)

theorem kk1Op_keepsHand (f : Bool → Bool) : (kk1Op f).KeepsHand :=
  VOp.keepsHand_of_registers (fun _ _ => rfl) (fun _ _ => (Ctx.putK_rest _ _ _).1)

theorem ksetnOp_keepsHand : ksetnOp.KeepsHand :=
  VOp.keepsHand_of_registers (fun _ _ => rfl) (fun _ _ => (Ctx.putK_rest _ _ _).1)

theorem kpopcOp_keepsHand : kpopcOp.KeepsHand :=
  VOp.keepsHand_of_registers (fun _ _ => rfl) (fun _ _ => by split <;> rfl)

theorem kfirstOp_keepsHand : kfirstOp.KeepsHand :=
  VOp.keepsHand_of_registers (fun _ _ => rfl) (fun _ _ => by split <;> rfl)

theorem vmvxsOp_keepsHand : vmvxsOp.KeepsHand :=
  VOp.keepsHand_of_registers (fun _ _ => rfl) (fun _ _ => by dsimp only; split <;> rfl)

theorem vmvsxOp_keepsHand : vmvsxOp.KeepsHand :=
  VOp.keepsHand_of_registers (fun _ _ => rfl) (fun _ _ => (Ctx.putV_rest _ _ _ _ _).1)

theorem vslupOp_keepsHand : vslupOp.KeepsHand :=
  VOp.keepsHand_of_registers (fun _ _ => rfl) (fun _ _ => (Ctx.putV_rest _ _ _ _ _).1)

theorem vsldnOp_keepsHand : vsldnOp.KeepsHand := VOp.keepsHand_of_registers (fun _ _ => rfl) (fun _ _ => Ctx.each_t _ _ _ _)

theorem vpermOp_keepsHand : vpermOp.KeepsHand := VOp.keepsHand_of_registers (fun _ _ => rfl) (fun _ _ => Ctx.each_t _ _ _ _)

theorem vcompressOp_keepsHand : vcompressOp.KeepsHand :=
  VOp.keepsHand_of_registers (fun _ _ => rfl) (fun _ _ => (Ctx.putV_rest _ _ _ _ _).1)

theorem vexpandOp_keepsHand : vexpandOp.KeepsHand :=
  VOp.keepsHand_of_registers (fun _ _ => rfl) (fun _ _ => Ctx.each_t _ _ _ _)

theorem viotaOp_keepsHand : viotaOp.KeepsHand := VOp.keepsHand_of_registers (fun _ _ => rfl) (fun _ _ => Ctx.each_t _ _ _ _)

theorem redOp_keepsHand (f : Bool → Nat → Nat → Nat → Nat) : (redOp f).KeepsHand :=
  VOp.keepsHand_of_registers (fun _ _ => rfl) (fun _ _ => Ctx.putFirst_t _ _ _)

theorem fredOp_keepsHand (f : FpFormat → Nat → Nat → List (Option Nat) → Nat × BitVec 5) : (fredOp f).KeepsHand := by
  intro v c c' h
  simp only [fredOp] at h
  split at h
  · cases h; rfl
  · cases h; rw [Ctx.flag_t, Ctx.putFirst_t]

theorem flsetOp_keepsHand : flsetOp.KeepsHand := by
  intro v c c' h
  simp only [flsetOp] at h
  repeat' split at h
  all_goals cases h
  rfl

theorem flgetOp_keepsHand : flgetOp.KeepsHand := by
  intro v c c' h
  cases h
  rfl

theorem vpackOp_keepsHand : vpackOp.KeepsHand := by
  intro v c c' h
  simp only [vpackOp] at h
  repeat' split at h
  all_goals cases h
  · rfl
  all_goals rw [(Ctx.putV_rest _ _ _ _ _).1]

theorem convOp_keepsHand (acc : Bool) : (convOp acc).KeepsHand := by
  intro v c c' h
  simp only [convOp] at h
  repeat' split at h
  all_goals cases h
  · rfl
  all_goals rw [Ctx.place_t]

theorem vfextOp_keepsHand : vfextOp.KeepsHand := by
  intro v c c' h
  simp only [vfextOp] at h
  repeat' split at h
  all_goals cases h
  · rfl
  · rw [Ctx.place_t]

theorem mmaOp_keepsHand : mmaOp.KeepsHand := by
  intro v c c' h
  simp only [mmaOp] at h
  split at h
  · cases h; rfl
  · have h := Ctx.withPane_ok h
    split at h <;> cases h
    rfl

theorem mconvOp_keepsHand : mconvOp.KeepsHand := by
  intro v c c' h
  simp only [mconvOp] at h
  split at h
  · cases h; rfl
  · have h := Ctx.withPane_ok h
    split at h <;> cases h
    rfl

theorem mzeroOp_keepsHand : mzeroOp.KeepsHand := by
  intro v c c' h
  simp only [mzeroOp] at h
  cases Ctx.withPane_ok h
  rfl

theorem mrdrowOp_keepsHand : mrdrowOp.KeepsHand := by
  intro v c c' h
  simp only [mrdrowOp] at h
  split at h
  · cases h; rfl
  · have h := Ctx.withPane_ok h
    split at h <;> cases h
    rw [(Ctx.putV_rest _ _ _ _ _).1]

theorem mwrrowOp_keepsHand : mwrrowOp.KeepsHand := by
  intro v c c' h
  simp only [mwrrowOp] at h
  split at h
  · cases h; rfl
  · cases Ctx.withPane_ok h
    rfl

theorem pclaimOp_keepsHand : pclaimOp.KeepsHand := by
  intro v c c' h
  cases h
  rfl

theorem pfreeOp_keepsHand : pfreeOp.KeepsHand := by
  intro v c c' h
  simp only [pfreeOp] at h
  split at h <;> cases h
  exact State.foldl_id (fun s n => s.onPane n (fun _ => freePane)) (fun _ _ => rfl) _ _

theorem loadOp_keepsHand (m : VAddr) (wide : Bool) : (loadOp m wide).KeepsHand := by
  intro v c c' h
  simp only [loadOp] at h
  repeat' split at h
  all_goals cases h
  · rfl
  · rw [Ctx.putBits_t]
  · rw [Ctx.putL_t, Ctx.readsAt_id, Ctx.enteredItems_id]

theorem vldkOp_keepsHand : vldkOp.KeepsHand := by
  intro v c c' h
  simp only [vldkOp] at h
  repeat' split at h
  all_goals cases h
  · rfl
  · rw [(Ctx.putK_rest _ _ _).1]
  · rw [(Ctx.putK_rest _ _ _).1, Ctx.readsAt_id, Ctx.enteredItems_id]

theorem storeOp_keepsHand (m : VAddr) (wide : Bool) : (storeOp m wide).KeepsHand := by
  intro v c c' h
  simp only [storeOp] at h
  repeat' split at h
  all_goals cases h
  · rfl
  · rw [Ctx.effect_t, State.storeAll_id, Ctx.enteredItems_id]

theorem vstkOp_keepsHand : vstkOp.KeepsHand := by
  intro v c c' h
  simp only [vstkOp] at h
  repeat' split at h
  all_goals cases h
  · rfl
  · rw [Ctx.effect_t, State.storeAll_id, Ctx.enteredItems_id]

theorem vsxaddOp_keepsHand : vsxaddOp.KeepsHand := by
  intro v c c' h
  simp only [vsxaddOp] at h
  repeat' split at h
  all_goals cases h
  · exact c.sealed_id
  · rw [Ctx.performNoted_id, Ctx.enteredItems_id]
  · rw [Ctx.flag_t, Ctx.performNoted_id, Ctx.enteredItems_id]

theorem vamoOp_keepsHand (f : Bool → Nat → Nat → Nat → Nat) : (vamoOp f).KeepsHand := by
  intro v c c' h
  simp only [vamoOp] at h
  repeat' split at h
  all_goals cases h
  · exact c.sealed_id
  · rw [Ctx.putL_t, Ctx.performNoted_id, Ctx.enteredItems_id]

theorem hfsetOp_keepsHand : hfsetOp.KeepsHand := by
  intro v c c' h
  simp only [hfsetOp] at h
  split at h <;> cases h
  rfl

theorem hcodeOp_keepsHand : hcodeOp.KeepsHand := by
  intro v c c' h
  simp only [hcodeOp] at h
  repeat' split at h
  all_goals cases h
  · rfl
  · rw [(Ctx.putV_rest _ _ _ _ _).1]

theorem updateOp_keepsHand (step : Table → State → Nat → Nat → Except HFail (State × Bool × Nat))
    {put : VArgs → Ctx → List (Nat × Bool × Nat) → Ctx} (hput : ∀ v c rs, (put v c rs).t = c.t) : (updateOp step put).KeepsHand := by
  intro v c c' h
  simp only [updateOp, Ctx.unlessHeld] at h
  repeat' split at h
  all_goals cases h
  · exact c.sealed_id
  · rw [hput, (Ctx.putK_rest _ _ _).1, Ctx.effect_t, (State.enteredAll_keepsHart _ _).id, Ctx.performNoted_id]

theorem hinsOp_keepsHand : hinsOp.KeepsHand := updateOp_keepsHand _ (fun _ _ _ => (Ctx.putV_rest _ _ _ _ _).1)

theorem hdelOp_keepsHand : hdelOp.KeepsHand := updateOp_keepsHand _ (fun _ _ _ => rfl)

theorem hprobeOp_keepsHand : hprobeOp.KeepsHand := by
  intro v c c' h
  simp only [hprobeOp, Ctx.unlessHeld] at h
  repeat' split at h
  all_goals cases h
  · rfl
  · rw [Ctx.putProbes_t, Ctx.atHome_id]

theorem hrehashOp_keepsHand : hrehashOp.KeepsHand := by
  intro v c c' h
  simp only [hrehashOp] at h
  repeat' split at h
  all_goals cases h
  exact (State.seal_id _).trans c.atHome_id

theorem hfenceOp_keepsHand : hfenceOp.KeepsHand := by
  intro v c c' h
  simp only [hfenceOp] at h
  split at h <;> cases h
  rw [Ctx.effect_t, (State.drainWhere_keepsHart _ _).id, State.flushClosed_h]

theorem hstatOp_keepsHand : hstatOp.KeepsHand := by
  intro v c c' h
  simp only [hstatOp] at h
  split at h <;> cases h
  exact c.atHome_id

/-- Every vector operation leaves which hart is in hand. -/
theorem keepsHand_of_opOf {i : Instr} {op : VOp} {v : VArgs} (h : opOf i = some (op, v)) : op.KeepsHand := by
  cases i
  case vadd | vsub | vrsub | vand | vor | vxor | vsll | vsrl | vsra | vmin | vmax | vminu | vmaxu | vadds | vsubs | vaddus | vmul
      | vmulh | vmulhu | vmacc =>
    cases h; exact intOp_keepsHand _
  case vcmpeq | vcmpne | vcmplt | vcmpltu | vcmple | vcmpleu | vcmpgt => cases h; exact cmpOp_keepsHand _
  case vmv => cases h; exact vmvOp_keepsHand
  case vid => cases h; exact vidOp_keepsHand
  case vmerge => cases h; exact vmergeOp_keepsHand
  case vwiden => cases h; exact vwidenOp_keepsHand
  case vnarrow => cases h; exact vnarrowOp_keepsHand
  case vfadd | vfsub | vfmul | vfdiv | vfsqrt | vfma | vfms | vfnma | vfmin | vfmax => cases h; exact fpOp_keepsHand _
  case vfsgn => cases h; exact vfsgnOp_keepsHand
  case vfcmpeq | vfcmplt | vfcmple => cases h; exact fpCmpOp_keepsHand _ _
  case vfclass => cases h; exact vfclassOp_keepsHand
  case vfcvt => cases h; exact vfcvtOp_keepsHand
  case vbscale => cases h; exact vbscaleOp_keepsHand
  case vbquant => cases h; exact vbquantOp_keepsHand
  case vbdeq => cases h; exact vbdeqOp_keepsHand
  case kand | kor | kxor | kandn => cases h; exact kk2Op_keepsHand _
  case knot | kmv => cases h; exact kk1Op_keepsHand _
  case ksetn => cases h; exact ksetnOp_keepsHand
  case kpopc => cases h; exact kpopcOp_keepsHand
  case kfirst => cases h; exact kfirstOp_keepsHand
  case vmvxs => cases h; exact vmvxsOp_keepsHand
  case vmvsx => cases h; exact vmvsxOp_keepsHand
  case vslup => cases h; exact vslupOp_keepsHand
  case vsldn => cases h; exact vsldnOp_keepsHand
  case vperm => cases h; exact vpermOp_keepsHand
  case vcompress => cases h; exact vcompressOp_keepsHand
  case vexpand => cases h; exact vexpandOp_keepsHand
  case viota => cases h; exact viotaOp_keepsHand
  case vredsum | vredmin | vredmax => cases h; exact redOp_keepsHand _
  case vfredo | vfredt | vfredmin | vfredmax => cases h; exact fredOp_keepsHand _
  case flset => cases h; exact flsetOp_keepsHand
  case flget => cases h; exact flgetOp_keepsHand
  case vpack => cases h; exact vpackOp_keepsHand
  case vpconv | vpconva => cases h; exact convOp_keepsHand _
  case vfext => cases h; exact vfextOp_keepsHand
  case mma => cases h; exact mmaOp_keepsHand
  case mconv => cases h; exact mconvOp_keepsHand
  case mzero => cases h; exact mzeroOp_keepsHand
  case mrdrow => cases h; exact mrdrowOp_keepsHand
  case mwrrow => cases h; exact mwrrowOp_keepsHand
  case pclaim => cases h; exact pclaimOp_keepsHand
  case pfree => cases h; exact pfreeOp_keepsHand
  case vld | vlds | vldx => cases h; exact loadOp_keepsHand _ _
  case vldk => cases h; exact vldkOp_keepsHand
  case vst | vsts | vstx => cases h; exact storeOp_keepsHand _ _
  case vstk => cases h; exact vstkOp_keepsHand
  case vsxadd => cases h; exact vsxaddOp_keepsHand
  case vamoadd | vamomin | vamomax => cases h; exact vamoOp_keepsHand _
  case hfset => cases h; exact hfsetOp_keepsHand
  case hcode => cases h; exact hcodeOp_keepsHand
  case hprobe => cases h; exact hprobeOp_keepsHand
  case hins => cases h; exact hinsOp_keepsHand
  case hdel => cases h; exact hdelOp_keepsHand
  case hrehash => cases h; exact hrehashOp_keepsHand
  case hfence => cases h; exact hfenceOp_keepsHand
  case hstat => cases h; exact hstatOp_keepsHand
  all_goals cases h

/-- A word in its slot, and the slots of a convoy, leave which hart is in hand. -/
theorem Ctx.runSlot_id {c c' : Ctx} {i : Instr} {op : VOp} {v : VArgs} (hop : opOf i = some (op, v)) (h : c.runSlot op v = .ok c') :
    c'.t.h.id = c.t.h.id := by
  unfold Ctx.runSlot at h
  repeat' split at h
  · cases h
  all_goals exact keepsHand_of_opOf hop h

theorem runSlots_id {is : List Instr} {c c' : Ctx} (h : runSlots is c = .ok c') : c'.t.h.id = c.t.h.id := by
  induction is generalizing c with
  | nil => cases h; rfl
  | cons i is ih =>
    unfold runSlots at h
    split at h
    · exact ih (c := { c with pos := c.pos + 1 }) h
    next op v hop =>
      split at h
      · cases h
      next c1 h1 =>
        have htail : c'.t.h.id = c1.t.h.id := ih (c := { c1 with pos := c1.pos + 1 }) h
        exact htail.trans (Ctx.runSlot_id hop h1)

end Sys2Proof.Machine
end

section
/-!
The push of a convoy and its issue (R29, R68, R149, R151, R299, R333; log 10, log 24).
-/
namespace Sys2Proof.Machine

/-! ### Push -/

/-- Does the stage that a convoy names run, by the predicate of the level that gates it (R151)? None where no level does; a convoy that
names no stage always runs. -/
def State.stageRuns (s : State) : Option Nat → Option Bool
  | none => some true
  | some k => (s.h.loops.gate k).map (fun l => l.sp.getLsbD k)

section
variable {s : State} {stage : Option Nat} {is : List Instr} {next : Word}

theorem State.pushConvoy_lesc (ho : s.h.loops.overruns s.h.pc next = true) : s.pushConvoy stage is next = s.trapped .lesc 0 := if_pos ho

/-- A convoy that passes no LEND joins the queue when its stage runs. -/
theorem State.pushConvoy_runs (ho : s.h.loops.overruns s.h.pc next = false) {run : Bool} (hr : s.stageRuns stage = some run) :
    s.pushConvoy stage is next =
      if s.h.vstate = 0 then s.trapped .first 0
      else if run then .next (s.mapH (fun h => { h with convoys := h.convoys ++ [newConvoy h.pc next is s.dev.steps] }))
      else .next (s.advanceTo next) := by
  cases stage with
  | none => cases hr; simp only [State.pushConvoy, ho, Bool.false_eq_true, if_false]
  | some k =>
    simp only [State.stageRuns] at hr
    simp only [State.pushConvoy, ho, bitAt_toNat, hr, Bool.false_eq_true, if_false]

theorem State.pushConvoy_lnest (ho : s.h.loops.overruns s.h.pc next = false) (hr : s.stageRuns stage = none) :
    s.pushConvoy stage is next = s.trapped .lnest 0 := by
  cases stage with
  | none => cases hr
  | some k =>
    simp only [State.stageRuns] at hr
    simp only [State.pushConvoy, ho, bitAt_toNat, hr, Bool.false_eq_true, if_false]

theorem State.pushConvoy_first (ho : s.h.loops.overruns s.h.pc next = false) (hr : s.stageRuns stage ≠ none) (hv : s.h.vstate = 0) :
    s.pushConvoy stage is next = s.trapped .first 0 := by
  obtain ⟨run, hrun⟩ := Option.ne_none_iff_exists'.mp hr
  rw [State.pushConvoy_runs ho hrun, if_pos hv]

theorem State.pushConvoy_gatedOff (ho : s.h.loops.overruns s.h.pc next = false) (hr : s.stageRuns stage = some false)
    (hv : s.h.vstate ≠ 0) : s.pushConvoy stage is next = .next (s.advanceTo next) := by
  rw [State.pushConvoy_runs ho hr, if_neg hv, if_neg Bool.false_ne_true]

theorem State.pushConvoy_joins (ho : s.h.loops.overruns s.h.pc next = false) (hr : s.stageRuns stage = some true)
    (hv : s.h.vstate ≠ 0) :
    s.pushConvoy stage is next =
      .next (s.mapH (fun h => { h with convoys := h.convoys ++ [newConvoy h.pc next is s.dev.steps] })) := by
  rw [State.pushConvoy_runs ho hr, if_neg hv, if_pos rfl]

end

/-! The refusals of the header (Table 2.6), in their order. -/

section
variable {pc : Word} {h : ConvoyHeader} {ws : List Word}

theorem checkConvoy_misplaced (ha : pc.toNat % 8 ≠ 4) : checkConvoy pc h ws = .error (.align, pc) := if_pos ha

variable (ha : pc.toNat % 8 = 4)
include ha

theorem checkConvoy_enc (he : h.encOk = false) : checkConvoy pc h ws = .error (.enc, pc) := by
  simp [checkConvoy, ha, he]

theorem checkConvoy_ill (he : h.encOk = true) (hl : h.illOk = false) : checkConvoy pc h ws = .error (.ill, pc) := by
  simp [checkConvoy, ha, he, hl]

end

theorem exec_convoy_refused {h : ConvoyHeader} {ws : List Word} {s : State} {c : Cause} {v : Word}
    (hc : checkConvoy s.h.pc h ws = .error (c, v)) : exec (.convoy h ws) s = s.trapped c v := by
  show execConvoy h ws s = _
  rw [execConvoy, hc]

theorem exec_convoy_checked {h : ConvoyHeader} {ws : List Word} {s : State} {is : List Instr} (hc : checkConvoy s.h.pc h ws = .ok is) :
    exec (.convoy h ws) s =
      s.pushConvoy (if h.stg then some h.stage.toNat else none) is (s.h.pc + BitVec.ofNat 64 (4 + 8 * h.count)) := by
  show execConvoy h ws s = _
  rw [execConvoy, hc]

/-! ### Issue -/

/-- Beside the translations that it holds and the requests of walks, the device of a state is that of another, and so is its memory. -/
structure State.EntersTlbs (s t : State) : Prop where
  mem : t.mem = s.mem
  dev : t.dev = { s.dev with tlb2 := t.dev.tlb2, channels := t.dev.channels }

theorem State.EntersTlbs.refl (s : State) : s.EntersTlbs s := ⟨rfl, rfl⟩

theorem State.EntersTlbs.trans {s t u : State} (h : s.EntersTlbs t) (g : t.EntersTlbs u) : s.EntersTlbs u :=
  ⟨g.mem.trans h.mem, g.dev.trans (by rw [h.dev])⟩

theorem State.walkAsked_entersTlbs (s : State) (c : BitVec 16) (a : Word) : s.EntersTlbs (s.walkAsked c a) := by
  obtain ⟨cs, h⟩ := State.asked_eq (walkerOf (dieOfHart s.h.id)) (dieOfHart s.h.id) (s.leafReads c.toNat a) s
  rw [State.walkAsked, h]
  exact ⟨rfl, rfl⟩

theorem State.walkedAs_entersTlbs (s : State) (c : BitVec 16) (a : Word) : s.EntersTlbs (s.walkedAs c a) := by
  unfold State.walkedAs
  split
  · exact s.walkAsked_entersTlbs c a
  · exact (s.walkAsked_entersTlbs c a).trans ⟨rfl, rfl⟩

theorem State.entered_entersTlbs (s : State) (a : Word) : s.EntersTlbs (s.entered a) := by
  unfold State.entered State.enteredAs
  split
  · exact s.walkedAs_entersTlbs _ a
  · split
    · exact s.walkedAs_entersTlbs _ a
    · split <;> exact ⟨rfl, rfl⟩

theorem State.enteredAll_entersTlbs (s : State) (as : List Word) : s.EntersTlbs (s.enteredAll as) := by
  induction as generalizing s with
  | nil => exact .refl s
  | cons a as ih => exact (s.entered_entersTlbs a).trans (ih _)

theorem State.takePanes_mem (ps : List Nat) (s : State) : (s.takePanes ps).mem = s.mem := by
  induction ps generalizing s with
  | nil => rfl
  | cons p ps ih => exact ih _

/-- The state after the issue of a convoy as `c`, before what stands ahead of a table word's reads is performed. -/
def State.issuedAs (s : State) (c : Convoy) (rest : List Convoy) (vas : List Word) : State :=
  (((s.takePanes c.claimed).enteredAll vas).mapH (fun h => { h with convoys := c :: rest })).mapCore
    (fun k => { k with rrIssue := (s.h.id % 4 + 1) % 4 })

theorem State.issuedAs_h (s : State) (c : Convoy) (rest : List Convoy) (vas : List Word) :
    (s.issuedAs c rest vas).h = { s.h with convoys := c :: rest } := by
  unfold State.issuedAs
  rw [State.mapCore_h, State.mapH_h, (State.enteredAll_rest _ _).1, (State.takePanes_rest _ s).1]

theorem State.issuedAs_entersTlbs (s : State) (c : Convoy) (rest : List Convoy) (vas : List Word) : s.EntersTlbs (s.issuedAs c rest vas) :=
  have htake : s.EntersTlbs (s.takePanes c.claimed) := ⟨State.takePanes_mem _ s, by rw [(State.takePanes_rest _ s).2]⟩
  have henter : s.EntersTlbs ((s.takePanes c.claimed).enteredAll vas) := htake.trans (State.enteredAll_entersTlbs _ _)
  ⟨henter.mem, henter.dev⟩

theorem State.tablesHome_id (s : State) (ws : List Instr) : (s.tablesHome ws).h.id = s.h.id := (s.tablesHome_keepsHart ws).id

/-- A convoy issues under the GRANT of that moment. -/
theorem State.ready_grant {s : State} {cv : Convoy} {p : Convoy × List Word} (h : s.ready cv = some p) : p.1.grant = s.h.grant := by
  unfold State.ready at h
  dsimp only at h
  repeat' split at h
  all_goals cases h
  rfl

section
variable {s : State} {cv : Convoy} {rest : List Convoy} (hq : s.h.convoys = cv :: rest) (hni : cv.issued = false)
include hq hni

theorem State.issueConvoy_ill {x : TrapInfo} (hx : cv.illFrom s 0 cv.words = some x) : s.issueConvoy = s.raise x := by
  simp only [State.issueConvoy, hq, hni, hx, Bool.false_eq_true, if_false]

variable (hx : cv.illFrom s 0 cv.words = none)
include hx

theorem State.issueConvoy_lost {c : Nat} (hl : s.lostCluster = some c) :
    s.issueConvoy = if s.h.unsealed then s.rewind false
      else s.raise { cause := .lane, bp := 0, epc := cv.pc, eval := 0, eelem := 0, elane := 4 * c } := by
  simp only [State.issueConvoy, hq, hni, hx, hl, Bool.false_eq_true, if_false]

variable (hl : s.lostCluster = none)
include hl

theorem State.issueConvoy_notReady (hr : s.ready cv = none) : s.issueConvoy = s := by
  simp only [State.issueConvoy, hq, hni, hx, hl, hr, Bool.false_eq_true, ite_self]

theorem State.issueConvoy_ready {c : Convoy} {vas : List Word} (hr : s.ready cv = some (c, vas))
    (hturn : (upTo 4).any (fun j => 4 * s.core.id + j != s.h.id && s.yieldsTo cv (4 * s.core.id + j)) = false) :
    s.issueConvoy = (s.issuedAs c rest vas).tablesHome cv.words := by
  simp only [State.issueConvoy, hq, hni, hx, hl, hr, hturn, Bool.false_eq_true, if_false]
  rfl

end

theorem exec_convoyIssue {s t : State} (h : s.issueConvoy = t) (hid : t.h.id = s.h.id) : exec (.convoyIssue s.h.id) s = .next t := by
  subst h
  exact congrArg _ (State.withHart_self hid)

end Sys2Proof.Machine
end

section
/-!
The retirement of a convoy, and the reads of a probe before it (R27, R245, R260, R290, R292).
-/
namespace Sys2Proof.Machine

/-! ### Retirement -/

theorem Hart.wx_fold_id (h : Hart) (xw : List (XReg × Word)) : (xw.foldl (fun h p => h.wx p.1 p.2) h).id = h.id := by
  induction xw generalizing h with
  | nil => rfl
  | cons p xw ih => rw [List.foldl_cons, ih]; unfold Hart.wx; split <;> rfl

theorem Ctx.retire_id (c : Ctx) : c.retire.h.id = c.t.h.id := by
  unfold Ctx.retire
  rw [State.flows_id (State.advanceTo_flows _ _)]
  exact Hart.wx_fold_id c.t.h c.xw

/-- The convoy as it comes to run holds the words that were pushed. -/
theorem State.settled_words {s : State} {cv cv1 : Convoy} {vas : List Word} (h : s.settled cv = some (cv1, vas)) : cv1.words = cv.words := by
  unfold State.settled at h
  split at h
  · obtain ⟨g, -, hg⟩ := Option.map_eq_some_iff.mp h
    cases hg; rfl
  · cases h; rfl

theorem State.nothingHolds {s : State} {ws : List Instr} (h : ¬ ∃ i ∈ ws, holdsRetirement i s = true) :
    ws.any (fun i => holdsRetirement i s) = false :=
  Bool.eq_false_iff.mpr (fun e => h (List.any_eq_true.mp e))

/-- The state in which the words of a convoy run, the translations `vas` of its late words made. -/
def State.comesToRun (s : State) (cv : Convoy) (vas : List Word) : State := (s.tablesRead cv).enteredAll vas

theorem State.comesToRun_keepsHart (s : State) (cv : Convoy) (vas : List Word) : s.keepsHart (s.comesToRun cv vas) :=
  (s.tablesRead_keepsHart cv).trans (State.enteredAll_keepsHart _ vas)

section
variable {s : State} {cv : Convoy} {rest : List Convoy} (hq : s.h.convoys = cv :: rest) (hi : cv.issued = true)
include hq hi

theorem State.retireConvoy_overdue (ho : s.h.overdue s.dev.time = true) : s.retireConvoy = s.discardQueues := by
  simp only [State.retireConvoy, hq, hi, ho, Bool.not_true, Bool.false_eq_true, if_false, if_true]

variable (ho : s.h.overdue s.dev.time = false)
include ho

theorem State.retireConvoy_held (hh : ∃ i ∈ cv.words, holdsRetirement i s = true) : s.retireConvoy = s := by
  have hany : cv.words.any (fun i => holdsRetirement i s) = true := List.any_eq_true.mpr hh
  simp only [State.retireConvoy, hq, hi, ho, hany, Bool.not_true, Bool.false_eq_true, if_false, if_true]

variable (hh : ¬ ∃ i ∈ cv.words, holdsRetirement i s = true)
include hh

theorem State.retireConvoy_unsettled (hs : (s.tablesRead cv).settled cv = none) : s.retireConvoy = s := by
  have hany := State.nothingHolds hh
  simp only [State.retireConvoy, hq, hi, ho, hany, hs, Bool.not_true, Bool.false_eq_true, if_false]

variable {cv1 : Convoy} {vas : List Word} (hs : (s.tablesRead cv).settled cv = some (cv1, vas))
include hs

theorem State.retireConvoy_ok {c : Ctx} (hr : runSlots cv.words (Ctx.start (s.comesToRun cv vas) cv1) = .ok c) :
    s.retireConvoy = c.retire := by
  have hany := State.nothingHolds hh
  simp only [State.comesToRun] at hr
  simp only [State.retireConvoy, hq, hi, ho, hany, hs, State.settled_words hs, hr, Bool.not_true, Bool.false_eq_true, if_false]

theorem State.retireConvoy_trap {x : TrapInfo} (hst : s.h.stopped = false)
    (hr : runSlots cv.words (Ctx.start (s.comesToRun cv vas) cv1) = .error (.trap x)) :
    s.retireConvoy = (((s.comesToRun cv vas).enteredAll
      (memoryAddresses cv.words (Ctx.start (s.comesToRun cv vas) cv1))).discardQueues.raise x) := by
  have hany := State.nothingHolds hh
  simp only [State.comesToRun] at hr
  simp only [State.retireConvoy, hq, hi, ho, hany, hs, State.settled_words hs, hr, hst, Bool.not_true, Bool.false_eq_true, if_false]
  simp only [State.stopConvoy, State.settled_words hs]
  rfl

end

theorem exec_convoyRetire {s t : State} (h : s.retireConvoy = t) (hid : t.h.id = s.h.id) : exec (.convoyRetire s.h.id) s = .next t := by
  subst h
  exact congrArg _ (State.withHart_self hid)

/-! ### What a refused convoy leaves of the hart -/

theorem State.keepsHart.trap {s t : State} (h : s.keepsHart t) : t.h.trap = s.h.trap := by rw [h.1]
theorem State.keepsHart.mq {s t : State} (h : s.keepsHart t) : t.h.mq = s.h.mq := by rw [h.1]

@[simp] theorem State.discardQueues_trap (s : State) : s.discardQueues.h.trap = s.h.trap := by rw [State.discardQueues_h]; rfl
@[simp] theorem State.discardQueues_mq (s : State) : s.discardQueues.h.mq = s.h.mq := by rw [State.discardQueues_h]; rfl
@[simp] theorem State.seal_mq (s : State) : s.seal.h.mq = s.h.mq := by rw [State.seal_eq]

/-- A trap that the handler takes leaves what MTX still has to do, and names the word it is about. -/
theorem State.raise_of_handler {s : State} {x : TrapInfo} (hte : s.h.trap.te = true) (hd : s.h.trap.dbga = false) :
    (s.raise x).h.mq = s.h.mq ∧ (s.raise x).h.trap.epc = x.epc := by
  have hno : ¬ s.debuggerTakes x.cause := fun h => Bool.false_ne_true (hd.symm.trans h.1)
  rw [State.raise_of_enabled hno hte]
  exact ⟨((s.discardQueues.seal_mq).trans s.discardQueues_mq), rfl⟩

/-! ### The read steps of a probe (R260) -/

/-- A code that a read step of the HPROBE finds is the next one. -/
theorem Ctx.nextCode_of_readStep {v : VArgs} {is : List Instr} {c : Ctx} {e : Nat} (h : Ctx.readStep (.hprobe v :: is) c e ≠ none) :
    c.nextCode v = some e := by
  refine Classical.byContradiction fun hn => h ?_
  simp only [Ctx.readStep, if_pos (Or.inr (Or.inr hn))]

/-- A read step of a probe behind another word is one of the convoy from the next word on, in the context that this word leaves. -/
theorem Ctx.readStep_behind {i : Instr} (hi : ∀ v, i ≠ .hprobe v) (is : List Instr) (c : Ctx) :
    (∀ e, Ctx.readStep (i :: is) c e = none) ∨ ∃ c1 : Ctx, ∀ e, Ctx.readStep (i :: is) c e = Ctx.readStep is c1 e := by
  by_cases hg : givesLast i c.s = true
  · exact .inl (fun e => by rw [Ctx.readStep, if_pos hg]; exact hi)
  · match hop : opOf i with
    | none => exact .inr ⟨{ c with pos := c.pos + 1 }, fun e => by rw [Ctx.readStep, if_neg hg, hop]; exact hi⟩
    | some (op, v) =>
      match hr : c.runSlot op v with
      | .error x => exact .inl (fun e => by rw [Ctx.readStep, if_neg hg, hop]; dsimp only; rw [hr]; exact hi)
      | .ok c1 => exact .inr ⟨{ c1 with pos := c1.pos + 1 }, fun e => by rw [Ctx.readStep, if_neg hg, hop]; dsimp only; rw [hr]; exact hi⟩

/-- At most one code can be read at a time. -/
theorem Ctx.readStep_unique {is : List Instr} {c : Ctx} {e f : Nat} (he : Ctx.readStep is c e ≠ none) (hf : f ≠ e) :
    Ctx.readStep is c f = none := by
  induction is generalizing c with
  | nil => rfl
  | cons i is ih =>
    by_cases hp : ∃ v, i = .hprobe v
    · obtain ⟨v, rfl⟩ := hp
      refine Classical.byContradiction fun hn => hf ?_
      exact (Option.some.inj ((Ctx.nextCode_of_readStep hn).symm.trans (Ctx.nextCode_of_readStep he)))
    · obtain hnone | ⟨c1, hc1⟩ := Ctx.readStep_behind (fun v hv => hp ⟨v, hv⟩) is c
      · exact hnone f
      · rw [hc1]
        exact ih (hc1 e ▸ he)

/-- The active codes below the next one have been read. -/
theorem Ctx.read_of_lt_nextCode {c : Ctx} {v : VArgs} {e f : Nat} (h : c.nextCode v = some e) (hf : f < e) (hm : f ∈ c.actives v) :
    c.cv.probes.any (fun p => p.1 == f) = true := by
  obtain ⟨-, before, after, hl, hb⟩ := List.find?_eq_some_iff_append.mp h
  have hsorted : (before ++ e :: after).Pairwise (· < ·) := hl ▸ List.Pairwise.filter _ List.pairwise_lt_range
  rw [Ctx.actives] at hl
  have hbefore : f ∈ before := by
    have hm' : f ∈ before ++ e :: after := hl ▸ hm
    obtain hin | hin := List.mem_append.mp hm'
    · exact hin
    · obtain rfl | hin := List.mem_cons.mp hin
      · exact absurd hf (Nat.lt_irrefl _)
      · have := (List.pairwise_cons.mp (List.pairwise_append.mp hsorted).2.1).1 f hin
        omega
  simpa using hb f hbefore

/-- The load before a probe leaves which hart is in hand. -/
theorem State.latched_id {s : State} {is : List Instr} {c : Ctx} : (s.latched is c).1.h.id = s.h.id := by
  induction is generalizing c with
  | nil => rfl
  | cons i is ih =>
    unfold State.latched
    split
    · rfl
    · rfl
    next hl =>
      cases hl
      split
      · exact ih
      next op v hop =>
        split
        · rfl
        · split
          · dsimp only
            split
            next c2 _ hrun => exact keepsHand_of_opOf hop hrun
            · rfl
          · exact ih

/-- The load before the probe of a convoy, its reads made at their home. -/
def State.latch (s : State) (cv : Convoy) : State × Option Nat := s.atHome.latched cv.words (Ctx.start s.atHome cv)

theorem State.latch_id (s : State) (cv : Convoy) : (s.latch cv).1.h.id = s.h.id := State.latched_id.trans s.atHome_keepsHart.id

/-- The context in which a read step of the probe of a convoy is made. -/
def State.probing (s : State) (cv : Convoy) : Ctx := Ctx.start (s.latch cv).1 { cv with loaded := (s.latch cv).2 }

section
variable {s : State} {cv : Convoy} {rest : List Convoy} (hq : s.h.convoys = cv :: rest) (hi : cv.issued = true) {e : Nat}
include hq hi

theorem State.readStep_none (h : Ctx.readStep cv.words (s.probing cv) e = none) : s.readStep e = s := by
  have hni : ¬ (!cv.issued) = true := by simp [hi]
  simp only [State.probing, State.latch] at h
  simp only [State.readStep, hq, if_neg hni, h]

theorem State.readStep_some {b : BitVec 512} {vas : List Word} (h : Ctx.readStep cv.words (s.probing cv) e = some (b, vas)) :
    s.readStep e = ((s.latch cv).1.enteredAll vas).mapH (fun h => { h with
      convoys := { cv with loaded := (s.latch cv).2, probes := cv.probes ++ [(e, b)] } :: rest }) := by
  have hni : ¬ (!cv.issued) = true := by simp [hi]
  simp only [State.probing, State.latch] at h
  simp only [State.readStep, hq, if_neg hni, h, State.latch]

end

theorem exec_hprobeReadStep {s t : State} {e : Nat} (h : s.readStep e = t) (hid : t.h.id = s.h.id) :
    exec (.hprobeReadStep s.h.id e) s = .next t := by
  subst h
  exact congrArg _ (State.withHart_self hid)

end Sys2Proof.Machine
end

section
/-!
A mismatch in protected mode (R298, R299), a vector instruction as a convoy of its own (R20), and the life of a convoy as a whole. Settles
O49.
-/
namespace Sys2Proof.Machine

/-! ### A mismatch in protected mode -/

/-- The two clusters of a pair, as the bits n and n + 4 of LANEDIS (R299). -/
theorem pairBits (n : Nat) : BitVec.ofNat 8 (2 ^ n + 2 ^ (n + 4)) = BitVec.ofNat 8 (2 ^ n) ||| BitVec.ofNat 8 (2 ^ (n + 4)) := by
  have hlt : 2 ^ n < 2 ^ (n + 4) := Nat.pow_lt_pow_right (by omega) (by omega)
  have hor : 2 ^ (n + 4) + 2 ^ n = 2 ^ (n + 4) ||| 2 ^ n := by
    simpa using Nat.two_pow_add_eq_or_of_lt hlt 1
  rw [← BitVec.ofNat_or, Nat.or_comm, ← hor, Nat.add_comm]

/-- A mismatch counted for its primary lane, the convoy discarded; the second on the lane retires the cluster pair. -/
def State.countMismatch (s : State) (lane : Nat) : State :=
  s.discardQueues.mapCore (fun k => { k with
    mismatch := k.mismatch.set lane (s.core.mismatch.getD lane 0 + 1),
    lanedis := if 2 ≤ s.core.mismatch.getD lane 0 + 1
      then k.lanedis ||| BitVec.ofNat 8 (2 ^ (lane / 4)) ||| BitVec.ofNat 8 (2 ^ (lane / 4 + 4)) else k.lanedis })

theorem State.mismatchAt_mirrored {s : State} {cv : Convoy} {rest : List Convoy} {slot e : Nat} {operand : Bool} {i : Instr} {op : VOp}
    {v : VArgs} {c : Ctx} (hq : s.h.convoys = cv :: rest) (hi : cv.issued = true) (hp : s.h.pmodeNow = true)
    (hs : convoySlot slot cv.words (Ctx.start s (s.running cv)) = some (i, op, v, c)) (hm : c.mirrors i op v e operand = true) :
    s.mismatchAt slot e operand =
      ((s.countMismatch (c.mismatchInfo i e operand).elane).logHart .mismatch (c.mismatchInfo i e operand).elane).requestRewind
        (c.mismatchInfo i e operand) := by
  have hgo : ¬ (!cv.issued || !s.h.pmodeNow) = true := by simp [hi, hp]
  have hmirror : ¬ (!c.mirrors i op v e operand) = true := by simp [hm]
  simp only [State.mismatchAt, hq, if_neg hgo, hs, if_neg hmirror, pairBits, State.countMismatch, BitVec.or_assoc]

theorem State.countMismatch_h (s : State) (lane : Nat) : (s.countMismatch lane).h = s.discardQueues.h := rfl

theorem State.keepsHart.loops {s t : State} (h : s.keepsHart t) : t.h.loops = s.h.loops := by rw [h.1]
theorem State.keepsHart.retry {s t : State} (h : s.keepsHart t) : t.h.retry = s.h.retry := by rw [h.1]

section
variable (s : State) (lane : Nat)

theorem State.loggedMismatch_loops : ((s.countMismatch lane).logHart .mismatch lane).h.loops = s.h.loops := by
  rw [(State.logHart_keepsHart _ _ _).loops, State.countMismatch_h, State.discardQueues_h]; rfl

theorem State.loggedMismatch_retry : ((s.countMismatch lane).logHart .mismatch lane).h.retry = s.h.retry := by
  rw [(State.logHart_keepsHart _ _ _).retry, State.countMismatch_h, State.discardQueues_h]; rfl

theorem State.loggedMismatch_id : ((s.countMismatch lane).logHart .mismatch lane).h.id = s.h.id := by
  rw [(State.logHart_keepsHart _ _ _).id, State.countMismatch_h, State.discardQueues_h]; rfl

end

/-! What a rewind that is asked for comes to (Table 8.7). -/

section
variable {s : State} {t : TrapInfo}

theorem State.requestRewind_noStrip (ho : s.h.loops.opn = false) : s.requestRewind t = s.raise { t with cause := .data } := by
  simp only [State.requestRewind, ho, Bool.not_false, if_true]

variable (ho : s.h.loops.opn = true)
include ho

theorem State.requestRewind_sealed (hs : s.h.loops.sealed = true) : s.requestRewind t = s.raise { t with cause := .strip } := by
  simp only [State.requestRewind, ho, hs, Bool.not_true, Bool.false_eq_true, if_false, if_true]

variable (hs : s.h.loops.sealed = false)
include hs

theorem State.requestRewind_counted (hr : s.h.loops.rewinds.toNat < s.h.retry.toNat) : s.requestRewind t = s.rewind true := by
  simp only [State.requestRewind, ho, hs, Bool.not_true, Bool.false_eq_true, if_false, if_pos hr]

theorem State.requestRewind_exhausted (hr : s.h.retry.toNat ≤ s.h.loops.rewinds.toNat) :
    s.requestRewind t = s.raise { t with cause := .data } := by
  simp only [State.requestRewind, ho, hs, Bool.not_true, Bool.false_eq_true, if_false, if_neg (Nat.not_lt.mpr hr)]

end

theorem step_mismatch {s : State} {l : List Move} {slot e : Nat} {operand : Bool} (hag : s.agenda = .mismatch s.h.id slot e operand :: l)
    (hid : ({ s with agenda := l } : State).tick.h.id = s.h.id)
    (hkeep : (({ s with agenda := l } : State).tick.mismatchAt slot e operand).h.id = s.h.id) :
    step s = .next (({ s with agenda := l } : State).tick.mismatchAt slot e operand) := by
  have hself := State.withHart_self (f := (·.mismatchAt slot e operand)) (hkeep.trans hid.symm)
  rw [hid] at hself
  simp only [step, State.next, hag, State.act, hself]

/-! ### A vector instruction in a convoy of its own -/

/-- What `vectorReady` says of the push: nothing stands in its way. -/
theorem State.runVector_queued {s : State} {i : Instr} (hr : vectorReady i s = true) :
    s.runVector i = .next (s.queued i).issueConvoy.retireConvoy := by
  simp only [vectorReady, Bool.and_eq_true, List.isEmpty_iff, Option.isNone_iff_eq_none, Bool.not_eq_true', beq_iff_eq, bne_iff_ne] at hr
  obtain ⟨⟨⟨⟨⟨⟨⟨⟨⟨hpc, hf⟩, hq⟩, -⟩, -⟩, hvs⟩, hov⟩, -⟩, -⟩, -⟩ := hr
  have hpush : s.pushConvoy none [i] (s.h.pc + 12) = .next (s.queued i) := by
    rw [State.pushConvoy_joins hov rfl hvs]
    simp only [State.queued, State.mapH, hq]
    rfl
  have hplace : ¬ s.h.pc.toNat % 8 ≠ 4 := fun h => h hpc
  simp only [State.runVector, if_neg hplace, hf, hpush]

/-- A fatal trap leaves no convoy that has not issued. -/
theorem State.fatal_convoys {s : State} (hc : s.h.convoys.takeWhile (·.issued) = []) (t : TrapInfo) : (s.fatal t).h.convoys = [] := by
  unfold State.fatal
  extract_lets r u
  have hu : u.h.convoys = [] := hc
  have hw := State.foldl_keepsHart State.withdraw State.withdraw_keepsHart (u.allHarts.filter (·.ofTask s.h.task)) u
  have hwc : ((u.allHarts.filter (·.ofTask s.h.task)).foldl State.withdraw u).h.convoys = [] := by rw [hw.1]; exact hu
  unfold State.killTask
  dsimp only [State.mapDev_h, State.mapHarts]
  split
  · exact congrArg (List.takeWhile (·.issued)) hwc
  · exact hwc

/-- A cause that no debugger takes leaves no convoy that has not issued. -/
theorem State.raise_convoys {s : State} {t : TrapInfo} (hd : ¬ s.debuggerTakes t.cause) (hc : s.h.convoys.takeWhile (·.issued) = []) :
    (s.raise t).h.convoys = [] := by
  cases hte : s.h.trap.te with
  | true =>
    rw [State.raise_of_enabled hd hte]
    show s.discardQueues.seal.h.convoys = []
    rw [State.seal_eq, State.discardQueues_h]
  | false =>
    rw [State.raise_of_disabled hd hte]
    exact State.fatal_convoys hc t

/-- Without a convoy nothing retires. -/
theorem State.retireConvoy_nil {s : State} (h : s.h.convoys = []) : s.retireConvoy = s := by simp only [State.retireConvoy, h]

/-- The refusal of a vector instruction alone that VT does not suit: at the address of its word (R29, R333). -/
def State.vectorIll (s : State) (named : Bool) : TrapInfo where
  cause := .ill
  bp := 0
  epc := s.h.pc
  eval := s.h.pc + 4
  eelem := 0
  elane := if named then laneOf s.h.grant s.h.sew 0 else 0

theorem State.runVector_ill {s : State} {i : Instr} {op : VOp} {v : VArgs} (hr : vectorReady i s = true) (hop : opOf i = some (op, v))
    (hill : op.ill v (s.queued i) = true) : s.runVector i = .next ((s.queued i).raise (s.vectorIll op.named)) := by
  have hx : (s.soleConvoy i).illFrom (s.queued i) 0 (s.soleConvoy i).words = some (s.vectorIll op.named) := by
    show Convoy.illFrom _ _ 0 [i] = _
    simp only [Convoy.illFrom, hop, hill, if_true]
    rfl
  have hno : ¬ (s.queued i).debuggerTakes (s.vectorIll op.named).cause := fun h => h.2.elim nofun nofun
  rw [State.runVector_queued hr, State.issueConvoy_ill (s := s.queued i) (rest := []) rfl rfl hx,
    State.retireConvoy_nil (State.raise_convoys hno rfl)]

/-! ### The life of a convoy -/

/-- Settles O49: the push, the issue, the retirement, the read steps, a mismatch, and a vector instruction alone. -/
theorem convoysRunWhole : Obligations.ConvoysRunWhole := by
  unfold Obligations.ConvoysRunWhole
  refine ⟨?push, ?issue, ?retire, ?mismatch, ?sole⟩
  case push =>
    intro h ws s next i
    refine ⟨fun ha => ?_, fun ha he => ?_, fun ha he hl => ?_, fun is hc => ?_⟩
    · exact exec_convoy_refused (checkConvoy_misplaced ha)
    · exact exec_convoy_refused (checkConvoy_enc ha he)
    · exact exec_convoy_refused (checkConvoy_ill ha he hl)
    · intro run
      have hrun : s.stageRuns (if h.stg then some h.stage.toNat else none) = run := by
        simp only [run]
        split <;> rfl
      rw [exec_convoy_checked hc, ← hrun]
      exact ⟨State.pushConvoy_lesc, fun ho => ⟨State.pushConvoy_lnest ho, State.pushConvoy_first ho, State.pushConvoy_gatedOff ho,
        State.pushConvoy_joins ho⟩⟩
  case issue =>
    intro s cv rest hq hni turn
    refine ⟨fun x hx => ?_, fun hx => ⟨fun c hl hun => ?_, fun c hl hun => ?_, fun hl hr => ?_, fun c vas hl hturn hr => ?_⟩⟩
    · exact exec_convoyIssue (State.issueConvoy_ill hq hni hx) (s.raise_id _)
    · exact exec_convoyIssue ((State.issueConvoy_lost hq hni hx hl).trans (if_neg (by simp [hun]))) (s.raise_id _)
    · exact exec_convoyIssue ((State.issueConvoy_lost hq hni hx hl).trans (if_pos hun)) (s.rewind_id _)
    · exact exec_convoyIssue (State.issueConvoy_notReady hq hni hx hl hr) rfl
    · obtain ⟨hwords, -, hissued, -⟩ := State.ready_some hr
      have hid : ((s.issuedAs c rest vas).tablesHome cv.words).h.id = s.h.id := by rw [State.tablesHome_id, State.issuedAs_h]
      have henters := s.issuedAs_entersTlbs c rest vas
      exact ⟨s.issuedAs c rest vas, exec_convoyIssue (State.issueConvoy_ready hq hni hx hl hr hturn) hid, s.issuedAs_h c rest vas, hissued,
        hwords, State.ready_grant hr, henters.mem, henters.dev, rfl⟩
  case retire =>
    intro s cv rest hq hi held
    refine ⟨fun ho => ?_, fun ho hh => ?_, ?_⟩
    · exact exec_convoyRetire (State.retireConvoy_overdue hq hi ho) s.discardQueues_sameRegisters.id
    · exact exec_convoyRetire (State.retireConvoy_held hq hi ho hh) rfl
    intro r
    refine ⟨fun hl => r.settled_plain hl, fun ho hh hs => ?_, fun cv1 vas ho hh hs => ⟨fun c hr => ?_, fun x hst hr => ?_⟩, fun e => ?_⟩
    · exact exec_convoyRetire (State.retireConvoy_unsettled hq hi ho hh hs) rfl
    · have hid : c.retire.h.id = s.h.id := c.retire_id.trans ((runSlots_id hr).trans (s.comesToRun_keepsHart cv vas).id)
      exact exec_convoyRetire (State.retireConvoy_ok hq hi ho hh hs hr) hid
    · have hkeeps := (s.comesToRun_keepsHart cv vas).trans (State.enteredAll_keepsHart _ (memoryAddresses cv.words
        (Ctx.start (s.comesToRun cv vas) cv1)))
      have hsame := (hkeeps.sameRegisters.trans (State.discardQueues_sameRegisters _)).trans (State.raise_sameRegisters _ x)
      refine ⟨_, exec_convoyRetire (State.retireConvoy_trap hq hi ho hh hs hst hr) hsame.id, rfl, hsame.x, hsame.v, hsame.k, hsame.fflags,
        hsame.f, hsame.hf, fun hte hd => ?_⟩
      have htrap := (State.discardQueues_trap _).trans hkeeps.trap
      obtain ⟨hmq, hepc⟩ := State.raise_of_handler (x := x) ((congrArg (·.te) htrap).trans hte) ((congrArg (·.dbga) htrap).trans hd)
      exact ⟨hmq.trans ((State.discardQueues_mq _).trans hkeeps.mq), hepc⟩
    · intro u r cv1 step
      refine ⟨fun b vas hstep => ?_, fun hstep => ?_, fun hstep => ⟨fun f hf => ?_, fun v is hw f hf hm => ?_⟩⟩
      · exact exec_hprobeReadStep (State.readStep_some hq hi hstep) ((State.enteredAll_keepsHart _ vas).id.trans (s.latch_id cv))
      · exact exec_hprobeReadStep (State.readStep_none hq hi hstep) rfl
      · exact Ctx.readStep_unique hstep hf
      · simp only [step, cv1, r, hw] at hstep
        exact Ctx.read_of_lt_nextCode (Ctx.nextCode_of_readStep hstep) hf hm
  case mismatch =>
    intro s u l slot e operand cv rest i op v c hag hu hid hq hi hp hs hm t n counted logged
    subst hu
    have hat := State.mismatchAt_mirrored hq hi hp hs hm
    have hstep := step_mismatch hag hid (by rw [hat, State.requestRewind_id, State.loggedMismatch_id, hid])
    rw [hstep, hat]
    have hloops := State.loggedMismatch_loops ({ s with agenda := l } : State).tick t.elane
    have hretry := State.loggedMismatch_retry ({ s with agenda := l } : State).tick t.elane
    rw [← hloops, ← hretry]
    exact ⟨fun ho => congrArg _ (State.requestRewind_noStrip ho), fun ho hs => congrArg _ (State.requestRewind_sealed ho hs),
      fun ho hs hr => congrArg _ (State.requestRewind_counted ho hs hr), fun ho hs hr => congrArg _ (State.requestRewind_exhausted ho hs hr)⟩
  case sole =>
    intro i s op v hr hop
    refine ⟨exec_vector hop s, fun hill => ?_, fun cv c hill hcv hrun => ?_⟩
    · exact (exec_vector hop s).trans (State.runVector_ill hr hop hill)
    · exact (exec_vector hop s).trans (State.runVector_ready hr hop hcv hill hrun)

end Sys2Proof.Machine
end
